-- ==== Sys2Proof/Word.lean ====
section
/-! DEFINITION. The word types of the engine (spec/00_scope.md R8): an 8-bit serial byte or segment mask, a 16-bit
command word, a one-bit pin level. -/

namespace Sys2Proof

/-- A serial byte, or a segment mask (R8). -/
abbrev Byte := BitVec 8

/-- A command word (R8, R57). -/
abbrev Word := BitVec 16

/-- A pin level in the pin driver's write direction: `false` is low ("0"), `true` is high ("1") (R8, R61). -/
abbrev Level := Bool

end Sys2Proof
end

