-- ==== Sys2Proof/Syntax.lean ====
section
/-! DEFINITION. The nine commands (spec/30_encoding.md R58, R66), one constructor for each row of the opcode table, and
their operand types. -/

namespace Sys2Proof

/-- The engine's two pins (spec/10_state.md R17). -/
inductive Pin where
  | clk  -- the clock line, pin select 0
  | dio  -- the data line, pin select 1
  deriving DecidableEq, Repr, Inhabited

/-- A pin direction (spec/00_scope.md R8). -/
inductive Dir where
  | inp  -- IN
  | out  -- OUT
  deriving DecidableEq, Repr, Inhabited

/-- A command with its operands (spec/30_encoding.md R59 to R66). -/
inductive Instr where
  | pexp (p : Pin)                       -- PEXP: export a pin
  | pdir (p : Pin) (m : Dir)             -- PDIR: set a pin's direction
  | pwr (p : Pin) (l : Level)            -- PWR: write a pin's level
  | prd (p : Pin)                        -- PRD: read a pin's level
  | start                                -- START: start condition
  | stop                                 -- STOP: stop condition
  | wbyte (b : Byte)                     -- WBYTE: send a byte, sample the acknowledgment
  | disp (c : BitVec 2) (m : Byte)       -- DISP: write segment data `m` to cell `c`
  | segmap (d : BitVec 4) (pt : Bool)    -- SEGMAP: mask of digit `d`, with the separator when `pt`
  deriving DecidableEq, Repr, Inhabited

end Sys2Proof
end

