-- ==== Sys2Proof/WellFormed.lean ====
section
/-! DEFINITION. Well-formed commands: every operand value is legal but a SEGMAP digit above 9
(spec/30_encoding.md R62 to R64, R69). -/

namespace Sys2Proof

/-- The operand checks of a command: only SEGMAP has one, `D <= 9` (R64). -/
def Instr.wellFormed : Instr → Bool
  | .pexp _ => true
  | .pdir _ _ => true
  | .pwr _ _ => true
  | .prd _ => true
  | .start => true
  | .stop => true
  | .wbyte _ => true
  | .disp _ _ => true
  | .segmap d _ => decide (d.toNat ≤ 9)

end Sys2Proof
end

