-- ==== Sys2Proof/Decode.lean ====
section
/-! DEFINITION. The decoder of spec/30_encoding.md R76, total on every 16-bit word and rejecting by name, the encoder of
R71, and the table form of the decoder. A command word arrives as one 16-bit unit, with no byte order (spec/20_memory.md
R43). -/

namespace Sys2Proof

/-- Why a word names no command. These are the only reasons to refuse (spec/60_exceptions.md R167). -/
inductive Reject where
  | reservedOpcode   -- R67: opcode 0x0 or 0xA to 0xF
  | mustBeZero       -- R68: a 1 in a bit the format marks 0
  | digitAboveNine   -- R69: SEGMAP with D in 10 to 15
  deriving DecidableEq, Repr

/-- What the decoder answers for a word: exactly one command, or a rejection (R70). -/
inductive Decoded where
  | instr (i : Instr)
  | reject (r : Reject)
  deriving DecidableEq, Repr

/-- The opcode `w[15:12]` (R57). -/
def opcodeOf (w : Word) : BitVec 4 := w.extractLsb' 12 4

/-- Pin select `w[0]`: 0 is CLK, 1 is DIO (R59). -/
def pinOf (w : Word) : Pin := if w.getLsbD 0 then .dio else .clk

/-- Direction `w[1]`: 0 is IN, 1 is OUT (R60). -/
def dirOf (w : Word) : Dir := if w.getLsbD 1 then .out else .inp

/-- The rejection of a 1 in the bits the format marks 0 (R68): `zero` says the bits are 0. -/
def checked (zero : Bool) (i : Instr) : Decoded := if zero then .instr i else .reject .mustBeZero

/-- The decoder (R76). -/
def decode (w : Word) : Decoded :=
  match (opcodeOf w).toNat with
  | 1 => checked (w.extractLsb' 1 11 == 0) (.pexp (pinOf w))
  | 2 => checked (w.extractLsb' 2 10 == 0) (.pdir (pinOf w) (dirOf w))
  | 3 => checked (w.extractLsb' 2 10 == 0) (.pwr (pinOf w) (w.getLsbD 1))
  | 4 => checked (w.extractLsb' 1 11 == 0) (.prd (pinOf w))
  | 5 => checked (w.extractLsb' 0 12 == 0) .start
  | 6 => checked (w.extractLsb' 0 12 == 0) .stop
  | 7 => checked (w.extractLsb' 8 4 == 0) (.wbyte (w.extractLsb' 0 8))
  | 8 => checked (w.extractLsb' 10 2 == 0) (.disp (w.extractLsb' 8 2) (w.extractLsb' 0 8))
  | 9 =>
    if w.extractLsb' 5 7 == 0 then
      if (w.extractLsb' 0 4).toNat ≤ 9 then .instr (.segmap (w.extractLsb' 0 4) (w.getLsbD 4))
      else .reject .digitAboveNine
    else .reject .mustBeZero
  | _ => .reject .reservedOpcode

/-- The pin select bit, in place (R59). -/
def pinBits : Pin → Word
  | .clk => 0x0000
  | .dio => 0x0001

/-- The direction bit, in place (R60). -/
def dirBits : Dir → Word
  | .inp => 0x0000
  | .out => 0x0002

/-- The level bit, in place (R61). -/
def levelBits : Level → Word
  | false => 0x0000
  | true => 0x0002

/-- The encoder: the word of each command, from the syntax table R71. -/
def encode : Instr → Word
  | .pexp p => 0x1000 ||| pinBits p
  | .pdir p m => 0x2000 ||| dirBits m ||| pinBits p
  | .pwr p l => 0x3000 ||| levelBits l ||| pinBits p
  | .prd p => 0x4000 ||| pinBits p
  | .start => 0x5000
  | .stop => 0x6000
  | .wbyte b => 0x7000 ||| b.setWidth 16
  | .disp c m => 0x8000 ||| (c.setWidth 16 <<< 8) ||| m.setWidth 16
  | .segmap d pt => 0x9000 ||| ((BitVec.ofBool pt).setWidth 16 <<< 4) ||| d.setWidth 16

/-- The command word of a table row's bits: the low `nbits` bits of `w`, every bit above them 0. -/
def tableWord (nbits w : Nat) : Word := BitVec.ofNat 16 (w % 2 ^ nbits)

/-- The command the decoder reads from a word numbered as the opcode table numbers it. -/
def decodeTableWord (nbits w : Nat) : Option Instr :=
  match decode (tableWord nbits w) with
  | .instr i => some i
  | .reject _ => none

end Sys2Proof
end

