-- ==== Sys2Proof/Config.lean ====
section
/-! DEFINITION. The model's parameters (spec/00_scope.md R7) and the free values: what the platform and the environment
answer, and the state of a pin after a failed call. A constant with no body is open: every claim holds for each value. -/

namespace Sys2Proof

/-- The four platform calls with their data (spec/20_memory.md R38, spec/40_pin_driver.md R77). -/
inductive CallKind where
  | exportPin
  | setDir (m : Dir)
  | write (l : Level)
  | read
  deriving DecidableEq, Repr

/-- What the platform answers to a call (spec/40_pin_driver.md R79). -/
inductive CallOutcome where
  | ok
  | fail
  deriving DecidableEq, Repr, Inhabited

/-- The bound a `Wait` names (spec/40_pin_driver.md R86). -/
inductive WaitBound where
  | tSetup
  | tHigh
  | tAck
  deriving DecidableEq, Repr

/-- CLK_PIN: the platform identifier of the clock line, OPEN (R7, D4). -/
opaque Config.clkPin : Nat

/-- Any number, from which DIO_PIN is made (log entry 7). -/
opaque Config.dioPinRaw : Nat

/-- DIO_PIN: the platform identifier of the data line, OPEN but distinct from CLK_PIN (R7, R17, D4). Every pair of
distinct numbers is a value of the pair (log entry 7). -/
def Config.dioPin : Nat :=
  if Config.dioPinRaw = Config.clkPin then Config.clkPin + 1 else Config.dioPinRaw

/-- The platform identifier a pin is bound to (spec/10_state.md R17). -/
def Config.platformId : Pin → Nat
  | .clk => Config.clkPin
  | .dio => Config.dioPin

/-- BRIGHTNESS, fixed at 7 (R7, D29). -/
def Config.brightness : Byte := 7

/-- T_SETUP in nanoseconds, OPEN (R7, D11). -/
opaque Config.tSetup : Nat

/-- The lower bound of each wait, in nanoseconds: T_HIGH nominal 1 microsecond, T_ACK nominal 50 (R7, D11). -/
def Config.duration : WaitBound → Nat
  | .tSetup => Config.tSetup
  | .tHigh => 1000
  | .tAck => 50000

/-- T_REFRESH of the reference host, 0.75 seconds in nanoseconds (R7). -/
def Config.tRefresh : Nat := 750000000

/-- POINTS0: the separator flag of the reference host's first cycle, OPEN (R7, D20). -/
opaque Config.points0 : Bool

/-- Any number, from which EXIT_STATUS is made (log entry 8). -/
opaque Config.exitStatusLess1 : Nat

/-- EXIT_STATUS: non-zero, otherwise OPEN (R7, spec/60_exceptions.md R164). -/
def Config.exitStatus : Nat := Config.exitStatusLess1 + 1

/-- An enumeration of READ_VALUES, OPEN (R7, D8; log entry 6). Every non-empty set of integers is the range of some
function on the natural numbers, so every READ_VALUES is one of the values of this constant. -/
opaque Config.readValueOf (n : Nat) : Int

/-- READ_VALUES, the set of integer levels a platform read can return, as an argument of the model (R7): a finite set
written down, or the wholly open set that `Config.readValueOf` enumerates (log entry 6). -/
inductive ReadValues where
  | these (v : Int) (vs : List Int)   -- the set of v and the members of vs
  | unknown                           -- any non-empty set of integers
  deriving DecidableEq, Repr

/-- FREE VALUE: which member of READ_VALUES the environment's `n`-th answer is, to a read of pin `p` in input mode
(spec/40_pin_driver.md R85, D27; log entry 3). -/
opaque Config.envRead (p : Pin) (n : Nat) : Nat

/-- FREE VALUE: the platform's outcome of call `c` on pin identifier `id`, for the `n`-th call (spec/40_pin_driver.md R79,
D5; log entry 2). -/
opaque Config.platform (id : Nat) (c : CallKind) (n : Nat) : CallOutcome

/-- FREE VALUE: EXP of the pin that the failed call number `n` named (spec/40_pin_driver.md R80, D28; log entry 11). -/
opaque Config.failedExp (p : Pin) (c : CallKind) (n : Nat) : Bool

/-- FREE VALUE: DIR of the pin that the failed call number `n` named (R80, D28; log entry 11). -/
opaque Config.failedDir (p : Pin) (c : CallKind) (n : Nat) : Dir

/-- FREE VALUE: LAT of the pin that the failed call number `n` named (R80, D28; log entry 11). -/
opaque Config.failedLat (p : Pin) (c : CallKind) (n : Nat) : Level

end Sys2Proof
end

