-- ==== Sys2Proof/Machine/State.lean ====
section
/-! DEFINITION. The engine's state (spec/10_state.md), as plain data, and its value at reset. -/

namespace Sys2Proof.Machine

/-- The configuration of one pin: EXP (R18), DIR (R19), LAT (R20). -/
structure PinCfg where
  exp : Bool
  dir : Dir
  lat : Level
  deriving DecidableEq, Repr, Inhabited

/-- An event of TRACE (spec/00_scope.md R13, R25). -/
inductive Event where
  | exported (p : Pin)             -- EXPORT(p)
  | dir (p : Pin) (m : Dir)        -- DIR(p, m)
  | write (p : Pin) (l : Level)    -- WRITE(p, l)
  | read (p : Pin) (v : Int)       -- READ(p, v)
  | wait (t : WaitBound)           -- WAIT(t)
  deriving DecidableEq, Repr

/-- The reply a completed command hands to the host (spec/30_encoding.md R75). -/
inductive Reply where
  | noValue                        -- NONE
  | ack (v : Int)                  -- ACK(v)
  | level (v : Int)                -- LEVEL(v)
  | mask (m : Byte)                -- MASK(m)
  deriving DecidableEq, Repr

/-- The values of FCODE (spec/60_exceptions.md R161). -/
inductive FaultCode where
  | noFault                        -- 0
  | exportFail                     -- 1
  | dirFail                        -- 2
  | writeFail                      -- 3
  | readFail                       -- 4
  deriving DecidableEq, Repr

/-- The engine's position, PHASE (R28). -/
inductive Phase where
  | idle                           -- no command in progress
  | busy (c : Instr) (k : Nat)     -- command c in progress, its next primitive is number k
  | halted                         -- a fatal fault was raised
  deriving DecidableEq, Repr

/-- The transient registers of the byte-write state machine (R26): SR, BC (the number of data bits already sent), and ACKV
once it is sampled. -/
structure Xfer where
  sr : Byte
  bc : Fin 9
  ackv : Option Int
  deriving DecidableEq, Repr

/-- The whole state: the spec's (R16 to R28), the host interface's, and the model's own record of what the environment
answers (INVENTORY.md, "State"). -/
structure State where
  /-- EXP, DIR and LAT of CLK. -/
  clk : PinCfg
  /-- EXP, DIR and LAT of DIO. -/
  dio : PinCfg
  /-- FATAL (R23). -/
  fatal : Bool
  /-- FCODE (R23). -/
  fcode : FaultCode
  /-- REFUSED (R24). -/
  refused : Bool
  /-- TRACE, oldest event first (R25). -/
  trace : List Event
  /-- PHASE (R28). -/
  phase : Phase
  /-- SR, BC, ACKV, present only while a byte write runs (R16, R26): from BUSY at its micro-step 0 until its micro-step 49
  has completed, in a DISP in each of its four byte writes and not between them (DEDUCED, log entry 14). -/
  xfer : Option Xfer
  /-- The variable v of PRD's pseudocode, present only between its read and its reply (R91; log entry 9). -/
  rdv : Option Int
  /-- The replies handed to the host, oldest first (R75; log entry 5). -/
  replies : List Reply
  /-- The pin and call the diagnostic message names (R161, "recorded value"; log entry 10). -/
  diag : Option (Pin × CallKind)
  /-- The command words the host will hand over, the next one first (R194; log entry 4). -/
  hostWords : List Word
  /-- How many platform calls have succeeded: the draw number of the next outcome (log entry 2). -/
  calls : Nat
  /-- How many reads the environment has answered: the draw number of the next answer (log entry 3). -/
  reads : Nat
  /-- The platform's outcomes as far as they are written down, entry n for draw n (log entry 2). -/
  callScript : List CallOutcome
  /-- The environment's answers as far as they are written down, entry n for draw n, each the place of its value in
  READ_VALUES (log entry 3). -/
  readScript : List Nat
  /-- READ_VALUES, an argument of the model that no command changes (spec/00_scope.md R7; log entry 6). -/
  readValues : ReadValues
  deriving DecidableEq, Repr

/-- Why the machine stops. -/
inductive Fault where
  /-- Raised by a step, or a command, in PHASE = HALTED: the engine has no step (spec/60_exceptions.md R162; spec/93 item 9,
  stuck). Safe: the hardware does nothing either. -/
  | halted
  deriving DecidableEq, Repr

/-- Why a command gets no meaning. -/
inductive Refusal where
  /-- An arm of `exec` without a meaning; none is left. Safe: nothing can be proved of what it does. -/
  | notModelled (mnemonic : String)
  /-- Raised by a command handed over while another is in progress, which the host does not do
  (spec/70_reset_and_hazards.md R194; spec/93 item 12, refuse). `step` never raises it. Safe: no run contains it. -/
  | busy
  deriving DecidableEq, Repr

/-- The engine at process start (R34, R180): the two pins' registers, the environment's answers and the host's words are
free inputs of the launch, and so is the argument READ_VALUES (R7); every other piece of state has its one reset value. -/
def State.launch (clk dio : PinCfg) (callScript : List CallOutcome) (readScript : List Nat)
    (readValues : ReadValues) (hostWords : List Word) : State where
  clk := clk
  dio := dio
  fatal := false
  fcode := .noFault
  refused := false
  trace := []
  phase := .idle
  xfer := none
  rdv := none
  replies := []
  diag := none
  hostWords := hostWords
  calls := 0
  reads := 0
  callScript := callScript
  readScript := readScript
  readValues := readValues

/-- The reset state. R34 leaves EXP, DIR and LAT unspecified: DESIGN CHOICE not exported, IN, low (log entry 1). Nothing
is written down of the environment's answers (log entries 2, 3), READ_VALUES is open (log entry 6), and no host word waits
(log entry 4). -/
def State.reset : State := State.launch ⟨false, .inp, false⟩ ⟨false, .inp, false⟩ [] [] .unknown []

end Sys2Proof.Machine
end

