-- ==== Sys2Proof/Machine/Flags.lean ====
section
/-! DEFINITION. The engine has no condition codes (spec/10_state.md R29). What stands here in their place: the
acknowledgment test, the numbers and causes of FCODE, and the exit status. -/

namespace Sys2Proof.Machine

/-- A sample is an acknowledgment exactly when it is 0 (spec/41_byte_write.md R102, D9). -/
def isAck (v : Int) : Bool := v == 0

/-- The number of a cause code (spec/60_exceptions.md R161). -/
def FaultCode.number : FaultCode → Nat
  | .noFault => 0
  | .exportFail => 1
  | .dirFail => 2
  | .writeFail => 3
  | .readFail => 4

/-- The cause code a failed call raises: the call alone fixes it (spec/40_pin_driver.md R92, spec/60_exceptions.md R158). -/
def callCode : CallKind → FaultCode
  | .exportPin => .exportFail
  | .setDir _ => .dirFail
  | .write _ => .writeFail
  | .read => .readFail

/-- Whether the call needs the pin exported (spec/40_pin_driver.md R78): all but export. -/
def callNeedsExport : CallKind → Bool
  | .exportPin => false
  | .setDir _ => true
  | .write _ => true
  | .read => true

/-- The status the process exits with, once a fatal fault was raised (spec/60_exceptions.md R160, R164). -/
def State.exitStatus (s : State) : Option Nat := if s.fatal then some Config.exitStatus else none

end Sys2Proof.Machine
end

