-- ==== Sys2Proof/Machine/Operands.lean ====
section
/-! DEFINITION. The values commands work on: bits of a byte, the serial command bytes (spec/30_encoding.md R73), the
platform's strings (R74), and the segment ROM with its overlay (spec/44_segment_decoder.md). -/

namespace Sys2Proof.Machine

/-- `b[i]`: the bit sent in bit phase i, bit 0 the least significant (spec/41_byte_write.md R96). -/
def bitOf (b : Byte) (i : Nat) : Level := b.getLsbD i

/-- A level as the integer a read gives. -/
def levelValue (l : Level) : Int := if l then 1 else 0

/-- The integer an answer of the environment stands for: a member of READ_VALUES, by its place (R7, R21). -/
def readValueAt : ReadValues → Nat → Int
  | .these v vs, n => ((v :: vs)[n]?).getD v
  | .unknown, n => Config.readValueOf n

/-- Membership in READ_VALUES (R7). -/
def inReadValues (r : ReadValues) (v : Int) : Prop :=
  match r with
  | .these w ws => v ∈ w :: ws
  | .unknown => ∃ n, Config.readValueOf n = v

/-- 0x40, the auto-address command, first byte of DISP (spec/43_display_sequence.md R123). -/
def autoAddressCommand : Byte := 0x40

/-- 0x44, the fixed-address command, which no command sends (R123, spec/90_conflicts.md C5). -/
def fixedAddressCommand : Byte := 0x44

/-- `0xC0 | C`, the address byte of cell C (R124). -/
def addressByte (c : BitVec 2) : Byte := 0xC0 ||| c.setWidth 8

/-- `0x88 + BRIGHTNESS`, the display-control byte (R125). -/
def displayControlByte : Byte := 0x88 + Config.brightness

/-- The string the direction setter accepts (spec/30_encoding.md R74). -/
def dirString : Dir → String
  | .inp => "in"
  | .out => "out"

/-- The string the value writer accepts (R74). -/
def levelString : Level → String
  | false => "0"
  | true => "1"

/-- The byte count a complete write of the call has, for the two calls that write a string (R74). -/
def expectedLength : CallKind → Option Nat
  | .exportPin => none
  | .setDir m => some (dirString m).length
  | .write l => some (levelString l).length
  | .read => none

/-- A read-only memory: cells of an address and a byte. -/
abbrev Memory := List Host.Cell

/-- The canonical form: addresses strictly rising. An unlisted address reads as nothing, so no entry is redundant. -/
abbrev Memory.wf (m : Memory) : Prop := m.Pairwise (fun a b => a.1 < b.1)

/-- The byte at an address, if the memory lists it. -/
def Memory.read : Memory → Nat → Option Byte
  | [], _ => none
  | (a, b) :: rest, n => if a = n then some b else Memory.read rest n

/-- The segment ROM, addresses 0 to 9 (spec/44_segment_decoder.md R138; 6 is 0xFD, R139). -/
def rom : Memory :=
  [(0, 0x3F), (1, 0x06), (2, 0x5B), (3, 0x4F), (4, 0x66), (5, 0x6D), (6, 0xFD), (7, 0x07), (8, 0x7F), (9, 0x6F)]

/-- The separator bit (R134). -/
def separatorBit : Byte := 0x80

/-- The separator overlay, an OR (R134). -/
def overlay (pt : Bool) (m : Byte) : Byte := if pt then m ||| separatorBit else m

/-- `MemRead(ROM, D, 1)` with the overlay; nothing where the ROM has no entry (R132, R135). -/
def segMask (d : BitVec 4) (pt : Bool) : Option Byte := (rom.read d.toNat).map (overlay pt)

/-- The segments of a digit, by the conventional names of R136 (PRESUMED, log entry 12; no rule depends on them). -/
inductive Seg where
  | a | b | c | d | e | f | g | point
  deriving DecidableEq, Repr

/-- The bit of each segment (R136). -/
def Seg.bit : Seg → Nat
  | .a => 0
  | .b => 1
  | .c => 2
  | .d => 3
  | .e => 4
  | .f => 5
  | .g => 6
  | .point => 7

/-- The segments a mask lights (R136, R138). -/
def litSegments (m : Byte) : List Seg :=
  [Seg.a, .b, .c, .d, .e, .f, .g, .point].filter (fun s => m.getLsbD s.bit)

end Sys2Proof.Machine
end

