-- ==== Sys2Proof/Machine/Ops.lean ====
section
/-! DEFINITION. The named operations on State: pin registers, the environment's answers, the fatal fault and the refusal,
the platform primitives (spec/40_pin_driver.md R82 to R86), and the run of a command's micro-program. -/

namespace Sys2Proof.Machine

/-! ### Pin registers and views -/

/-- The configuration registers of a pin (R18 to R20). -/
def State.pin (s : State) : Pin → PinCfg
  | .clk => s.clk
  | .dio => s.dio

/-- The state with a pin's registers replaced. -/
def State.setPin (s : State) (p : Pin) (q : PinCfg) : State :=
  match p with
  | .clk => { s with clk := q }
  | .dio => { s with dio := q }

/-- `PCFG[p]` as the three bits of R22: EXP is bit 0, DIR bit 1, LAT bit 2. -/
def PinCfg.pcfg (q : PinCfg) : BitVec 3 :=
  BitVec.ofBool q.lat ++ BitVec.ofBool (decide (q.dir = .out)) ++ BitVec.ofBool q.exp

/-- The level the engine drives a pin's line to: LAT when the pin is exported and an output (R21). -/
def PinCfg.driven (q : PinCfg) : Option Level := if q.exp && decide (q.dir = .out) then some q.lat else none

/-- LINE(p) given the environment's level ENV(p) (R21). -/
def State.line (s : State) (p : Pin) (env : Int) : Int :=
  match (s.pin p).driven with
  | some l => levelValue l
  | none => env

/-! ### The environment's answers -/

/-- The platform's outcome of the call with draw number n: the script's entry, else the free value (R79). -/
def State.outcomeAt (s : State) (p : Pin) (c : CallKind) (n : Nat) : CallOutcome :=
  (s.callScript[n]?).getD (Config.platform (Config.platformId p) c n)

/-- The environment's read value of draw number n, a member of READ_VALUES: the one the script's entry names, else the one
the free value names (R85). -/
def State.envValueAt (s : State) (p : Pin) (n : Nat) : Int :=
  readValueAt s.readValues ((s.readScript[n]?).getD (Config.envRead p n))

/-- Whether the next call fails: the pin is not exported though the call needs it (R78), or the platform fails it (R79). -/
def State.callFails (s : State) (p : Pin) (c : CallKind) : Bool :=
  (callNeedsExport c && !(s.pin p).exp) || decide (s.outcomeAt p c s.calls = .fail)

/-! ### Events, faults, refusals -/

/-- Appends an event to TRACE (R25). -/
def State.emit (s : State) (e : Event) : State := { s with trace := s.trace ++ [e] }

/-- Counts a platform call that succeeded. -/
def State.countCall (s : State) : State := { s with calls := s.calls + 1 }

/-- Counts a read the environment answered. -/
def State.countRead (s : State) : State := { s with reads := s.reads + 1 }

/-- The unspecified registers of the pin a failed call named: free values (R80, D28). -/
def failedPin (p : Pin) (c : CallKind) (n : Nat) : PinCfg :=
  ⟨Config.failedExp p c n, Config.failedDir p c n, Config.failedLat p c n⟩

/-- TAKING THE FATAL FAULT of a failed call (spec/60_exceptions.md R160): FATAL, FCODE, HALTED, the named pin
unspecified (R80), nothing appended to TRACE; the diagnostic names the call (R161). There is no return from it (R163). -/
def State.raiseFatal (s : State) (p : Pin) (c : CallKind) : State :=
  { s.setPin p (failedPin p c s.calls) with
    fatal := true
    fcode := callCode c
    phase := .halted
    xfer := none
    rdv := none
    diag := some (p, c) }

/-- `Refuse(ILLEGAL_COMMAND)` (spec/60_exceptions.md R166). -/
def State.refuse (s : State) : State := { s with refused := true, phase := .idle }

/-! ### Primitives -/

/-- What a primitive ends in: it completes with a value, or the fatal fault was raised. -/
inductive PrimResult (α : Type) where
  | done (v : α) (s : State)
  | fatal (s : State)
  deriving DecidableEq, Repr

/-- A platform call on pin p (R77): on failure the fatal fault; on success the pin's registers become q and the event is
appended after that effect (R81). -/
def State.platformCall (s : State) (p : Pin) (c : CallKind) (q : PinCfg) (e : Event) : PrimResult Unit :=
  if s.callFails p c then .fatal (s.raiseFatal p c) else .done () (((s.setPin p q).countCall).emit e)

/-- `PinExport(p)` (R82). -/
def State.pinExport (s : State) (p : Pin) : PrimResult Unit :=
  s.platformCall p .exportPin { s.pin p with exp := true } (.exported p)

/-- `PinDir(p, m)` (R83). -/
def State.pinDir (s : State) (p : Pin) (m : Dir) : PrimResult Unit :=
  s.platformCall p (.setDir m) { s.pin p with dir := m } (.dir p m)

/-- `PinWrite(p, l)` (R84): the latch is written whatever the direction (D7). -/
def State.pinWrite (s : State) (p : Pin) (l : Level) : PrimResult Unit :=
  s.platformCall p (.write l) { s.pin p with lat := l } (.write p l)

/-- The value a read of pin p gives: the latch of an output, else the environment's next answer (R85, D8). -/
def State.readValue (s : State) (p : Pin) : Int :=
  if (s.pin p).dir = .out then levelValue (s.pin p).lat else s.envValueAt p s.reads

/-- The state after a read's draw: only a pin in input mode draws from the environment (R85). -/
def State.drawRead (s : State) (p : Pin) : State := if (s.pin p).dir = .out then s else s.countRead

/-- `v <- PinRead(p)` (R85). -/
def State.pinRead (s : State) (p : Pin) : PrimResult Int :=
  match s.platformCall p .read (s.pin p) (.read p (s.readValue p)) with
  | .done _ s' => .done (s.readValue p) (s'.drawRead p)
  | .fatal s' => .fatal s'

/-- `Wait(t)` (R86): it appends its event and cannot fail. -/
def State.wait (s : State) (t : WaitBound) : PrimResult Unit := .done () (s.emit (.wait t))

/-! ### Micro-programs -/

/-- What the engine does to the transient registers when it arrives at a micro-step, before its primitive
(spec/41_byte_write.md R94; log entry 14). -/
inductive RegAct where
  | keep
  | load (b : Byte)     -- SR <- b, BC = 0, ACKV not yet sampled
  | count (n : Fin 9)   -- BC = n
  | drop                -- no byte write runs: SR, BC, ACKV do not exist (R16; log entry 14)
  deriving DecidableEq, Repr

/-- The primitive of a micro-step. -/
inductive Prim where
  | exportPin (p : Pin)
  | setDir (p : Pin) (m : Dir)
  | write (p : Pin) (l : Level)
  | writeBit              -- PinWrite(DIO, SR[BC])
  | read (p : Pin)        -- v <- PinRead(p), for PRD's reply
  | sample                -- v <- PinRead(DIO); ACKV <- v
  | hold                  -- if v = 0 then PinWrite(DIO, 0)
  | wait (t : WaitBound)
  deriving DecidableEq, Repr

/-- One micro-step of a micro-program (spec/10_state.md R28). -/
structure MicroOp where
  act : RegAct
  prim : Prim
  deriving DecidableEq, Repr

/-- The transient registers as a micro-step sets them. -/
def State.regAct (s : State) : RegAct → State
  | .keep => s
  | .load b => { s with xfer := some ⟨b, 0, none⟩ }
  | .count n => { s with xfer := s.xfer.map (fun x => { x with bc := n }) }
  | .drop => { s with xfer := none }

/-- `SR[BC]`, the data bit to send (spec/10_state.md R26). Without a byte write in progress there is none, and no run asks
for it. -/
def State.shiftBit (s : State) : Level :=
  match s.xfer with
  | some x => bitOf x.sr x.bc.val
  | none => false

/-- ACKV, once it is sampled. -/
def State.ackv (s : State) : Option Int := s.xfer.bind (·.ackv)

/-- Whether the sample was an acknowledgment, the condition of the acknowledgment hold (R104). -/
def State.acked (s : State) : Bool := (s.ackv.map isAck).getD false

/-- ACKV <- v. -/
def State.setAck (s : State) (v : Int) : State := { s with xfer := s.xfer.map (fun x => { x with ackv := some v }) }

/-- The value PRD's read gave. -/
def State.setRdv (s : State) (v : Int) : State := { s with rdv := some v }

/-- Runs one primitive. The hold is skipped, with no call and no event, when its condition is false (R28, R104). -/
def State.doPrim (s : State) : Prim → PrimResult Unit
  | .exportPin p => s.pinExport p
  | .setDir p m => s.pinDir p m
  | .write p l => s.pinWrite p l
  | .writeBit => s.pinWrite .dio s.shiftBit
  | .read p =>
    match s.pinRead p with
    | .done v s' => .done () (s'.setRdv v)
    | .fatal s' => .fatal s'
  | .sample =>
    match s.pinRead .dio with
    | .done v s' => .done () (s'.setAck v)
    | .fatal s' => .fatal s'
  | .hold => if s.acked then s.pinWrite .dio false else .done () s
  | .wait t => s.wait t

/-- Arrives at a micro-step and runs it. -/
def State.doOp (s : State) (op : MicroOp) : PrimResult Unit := (s.regAct op.act).doPrim op.prim

/-- PHASE <- BUSY(i, k) (R28). -/
def State.enter (s : State) (i : Instr) (k : Nat) : State := { s with phase := .busy i k }

/-- The reply of a command whose last primitive has completed (spec/30_encoding.md R75). -/
def State.replyFor (s : State) : Instr → Option Reply
  | .pexp _ => some .noValue
  | .pdir _ _ => some .noValue
  | .pwr _ _ => some .noValue
  | .prd _ => s.rdv.map Reply.level
  | .start => some .noValue
  | .stop => some .noValue
  | .wbyte _ => s.ackv.map Reply.ack
  | .disp _ _ => some .noValue
  | .segmap d pt => (segMask d pt).map Reply.mask

/-- A command completes: PHASE returns to IDLE, the reply is handed over, the transient registers cease to exist
(R26, R28). Those of a DISP's byte writes have ceased to exist before (`RegAct.drop`; DEDUCED, log entry 14). -/
def State.complete (s : State) (i : Instr) : State :=
  { s with phase := .idle, xfer := none, rdv := none, replies := s.replies ++ (s.replyFor i).toList }

/-- Runs the micro-steps of command i from number k on, in order, until one raises the fatal fault
(spec/20_memory.md R48, R51; spec/60_exceptions.md R157). -/
def State.runSeq (i : Instr) : Nat → List MicroOp → State → PrimResult Unit
  | _, [], s => .done () s
  | k, op :: rest, s =>
    match (s.enter i k).doOp op with
    | .done _ s' => State.runSeq i (k + 1) rest s'
    | .fatal s' => .fatal s'

/-- Runs a whole micro-program and completes the command, unless it halted. -/
def State.runProgram (s : State) (i : Instr) (ops : List MicroOp) : State :=
  match State.runSeq i 0 ops s with
  | .done _ s' => s'.complete i
  | .fatal s' => s'

/-- A command handed to the engine runs when the engine is IDLE; a halted engine has no step (spec/60_exceptions.md
R162), and a busy one is handed no command (spec/70_reset_and_hazards.md R194). -/
def State.runCommand (s : State) (i : Instr) (ops : List MicroOp) : Host.Outcome State Fault Refusal :=
  match s.phase with
  | .idle => .next (s.runProgram i ops)
  | .busy _ _ => .refused .busy
  | .halted => .fault .halted

/-! ### The host's words -/

/-- The host's next command word and the state once it is handed over, if the host has one (R27, R194). -/
def State.fetch (s : State) : Option (Word × State) :=
  match s.hostWords with
  | [] => none
  | w :: ws => some (w, { s with hostWords := ws })

/-- The host makes w its next command word. -/
def State.handWord (s : State) (w : Word) : State := { s with hostWords := w :: s.hostWords }

end Sys2Proof.Machine
end

