-- ==== Sys2Proof/Machine/ByteWrite.lean ====
section
/-! DEFINITION. The byte write with acknowledgment sampling (spec/41_byte_write.md), the micro-program of WBYTE and of each
byte of DISP. -/

namespace Sys2Proof.Machine

/-- The five micro-steps of one data bit (R94, R95). Arriving at the first sets SR, or BC to the number of bits sent. -/
def bitOps (act : RegAct) : List MicroOp :=
  [⟨act, .write .clk false⟩, ⟨.keep, .writeBit⟩, ⟨.keep, .wait .tSetup⟩, ⟨.keep, .write .clk true⟩,
    ⟨.keep, .wait .tHigh⟩]

/-- The eight data bits, micro-steps 0 to 39 (R94). -/
def dataOps (b : Byte) : List MicroOp :=
  bitOps (.load b) ++ bitOps (.count 1) ++ bitOps (.count 2) ++ bitOps (.count 3) ++ bitOps (.count 4) ++
    bitOps (.count 5) ++ bitOps (.count 6) ++ bitOps (.count 7)

/-- The acknowledgment turnaround, micro-steps 40 to 49 (R94, R98 to R105). -/
def turnaroundOps : List MicroOp :=
  [⟨.count 8, .write .clk false⟩, ⟨.keep, .write .dio true⟩, ⟨.keep, .write .clk true⟩, ⟨.keep, .setDir .dio .inp⟩,
    ⟨.keep, .wait .tAck⟩, ⟨.keep, .sample⟩, ⟨.keep, .hold⟩, ⟨.keep, .wait .tAck⟩, ⟨.keep, .setDir .dio .out⟩,
    ⟨.keep, .wait .tAck⟩]

/-- `ByteWrite(b)`, fifty micro-steps (R94). -/
def byteWriteOps (b : Byte) : List MicroOp := dataOps b ++ turnaroundOps

/-- WBYTE (R94). -/
def execWbyte (b : Byte) (s : State) : Host.Outcome State Fault Refusal := s.runCommand (.wbyte b) (byteWriteOps b)

end Sys2Proof.Machine
end

