-- ==== Sys2Proof/Machine/Framing.lean ====
section
/-! DEFINITION. START and STOP (spec/42_framing.md): four writes each, no wait between them (D10), and no check of the
framing (R120, D33). -/

namespace Sys2Proof.Machine

/-- `Start()` (R113). -/
def startOps : List MicroOp :=
  [⟨.keep, .write .clk true⟩, ⟨.keep, .write .dio true⟩, ⟨.keep, .write .dio false⟩, ⟨.keep, .write .clk false⟩]

/-- START (R113). -/
def execStart (s : State) : Host.Outcome State Fault Refusal := s.runCommand .start startOps

/-- `Stop()` (R117). A byte write before it in the same command is over, so its registers are gone (R16; log entry 14). -/
def stopOps : List MicroOp :=
  [⟨.drop, .write .clk false⟩, ⟨.keep, .write .dio false⟩, ⟨.keep, .write .clk true⟩, ⟨.keep, .write .dio true⟩]

/-- STOP (R117). -/
def execStop (s : State) : Host.Outcome State Fault Refusal := s.runCommand .stop stopOps

end Sys2Proof.Machine
end

