-- ==== Sys2Proof/Machine/Display.lean ====
section
/-! DEFINITION. The display write sequence DISP (spec/43_display_sequence.md): three transactions; the four samples are
discarded (R127). -/

namespace Sys2Proof.Machine

/-- DISP's micro-program (R122). -/
def dispOps (c : BitVec 2) (m : Byte) : List MicroOp :=
  startOps ++ byteWriteOps autoAddressCommand ++ stopOps ++
  (startOps ++ byteWriteOps (addressByte c) ++ byteWriteOps m ++ stopOps) ++
  (startOps ++ byteWriteOps displayControlByte ++ stopOps)

/-- DISP (R122). -/
def execDisp (c : BitVec 2) (m : Byte) (s : State) : Host.Outcome State Fault Refusal :=
  s.runCommand (.disp c m) (dispOps c m)

end Sys2Proof.Machine
end

