-- ==== Sys2Proof/Machine/PinDriver.lean ====
section
/-! DEFINITION. The four pin commands (spec/40_pin_driver.md R87 to R91): one primitive each. -/

namespace Sys2Proof.Machine

/-- PEXP's micro-program (R88). -/
def pexpOps (p : Pin) : List MicroOp := [⟨.keep, .exportPin p⟩]

/-- PEXP (R88). -/
def execPexp (p : Pin) (s : State) : Host.Outcome State Fault Refusal := s.runCommand (.pexp p) (pexpOps p)

/-- PDIR's micro-program (R89). -/
def pdirOps (p : Pin) (m : Dir) : List MicroOp := [⟨.keep, .setDir p m⟩]

/-- PDIR (R89). -/
def execPdir (p : Pin) (m : Dir) (s : State) : Host.Outcome State Fault Refusal := s.runCommand (.pdir p m) (pdirOps p m)

/-- PWR's micro-program (R90). -/
def pwrOps (p : Pin) (l : Level) : List MicroOp := [⟨.keep, .write p l⟩]

/-- PWR (R90). -/
def execPwr (p : Pin) (l : Level) (s : State) : Host.Outcome State Fault Refusal := s.runCommand (.pwr p l) (pwrOps p l)

/-- PRD's micro-program (R91). -/
def prdOps (p : Pin) : List MicroOp := [⟨.keep, .read p⟩]

/-- PRD (R91). -/
def execPrd (p : Pin) (s : State) : Host.Outcome State Fault Refusal := s.runCommand (.prd p) (prdOps p)

end Sys2Proof.Machine
end

