-- ==== Sys2Proof/Machine/Segment.lean ====
section
/-! DEFINITION. SEGMAP (spec/44_segment_decoder.md): a ROM lookup that touches no pin and cannot raise a fault (R132). -/

namespace Sys2Proof.Machine

/-- SEGMAP has no pin primitive (R132). -/
def segmapOps : List MicroOp := []

/-- SEGMAP (R132): the reply is the mask. A digit above 9, which the decoder rejects (R135), is refused here as well (DESIGN
CHOICE, log entry 20). -/
def execSegmap (d : BitVec 4) (pt : Bool) (s : State) : Host.Outcome State Fault Refusal :=
  match s.phase, segMask d pt with
  | .idle, none => .next s.refuse
  | _, _ => s.runCommand (.segmap d pt) segmapOps

end Sys2Proof.Machine
end

