-- ==== Sys2Proof/Machine/Dispatch.lean ====
section
/-! DEFINITION. The meaning of every command: one arm for each constructor of Instr. -/

namespace Sys2Proof.Machine

def exec (i : Instr) (s : State) : Host.Outcome State Fault Refusal :=
  match i with
  | .pexp p => Sys2Proof.Machine.execPexp p s
  | .pdir p m => Sys2Proof.Machine.execPdir p m s
  | .pwr p l => Sys2Proof.Machine.execPwr p l s
  | .prd p => Sys2Proof.Machine.execPrd p s
  | .start => Sys2Proof.Machine.execStart s
  | .stop => Sys2Proof.Machine.execStop s
  | .wbyte b => Sys2Proof.Machine.execWbyte b s
  | .disp c m => Sys2Proof.Machine.execDisp c m s
  | .segmap d pt => Sys2Proof.Machine.execSegmap d pt s

end Sys2Proof.Machine
end

