-- ==== Sys2Proof/Machine/Micro.lean ====
section
/-! DEFINITION. The engine one primitive at a time (spec/10_state.md R28): the micro-step at PHASE = BUSY(c, k), and the
acceptance of a command word. -/

namespace Sys2Proof.Machine

/-- The micro-program of each command. -/
def program : Instr → List MicroOp
  | .pexp p => pexpOps p
  | .pdir p m => pdirOps p m
  | .pwr p l => pwrOps p l
  | .prd p => prdOps p
  | .start => startOps
  | .stop => stopOps
  | .wbyte b => byteWriteOps b
  | .disp c m => dispOps c m
  | .segmap _ _ => segmapOps

/-- The number of the primitive after number k: k + 1, or k + 2 where the acknowledgment hold stands at k + 1 and its
condition is false (R28). -/
def State.nextStep (s : State) (i : Instr) (k : Nat) : Nat :=
  if (program i)[k + 1]? = some ⟨.keep, .hold⟩ ∧ s.acked = false then k + 2 else k + 1

/-- The engine arrives at BUSY(i, k), with the transient registers as that micro-step finds them (R26, R28). -/
def State.arrive (s : State) (i : Instr) (k : Nat) : State :=
  match (program i)[k]? with
  | some op => (s.enter i k).regAct op.act
  | none => s.enter i k

/-- The engine has accepted command i and is about to run its first primitive. -/
def State.commence (s : State) (i : Instr) : State := s.arrive i 0

/-- After primitive k of command i: on to the next primitive, or the command completes (R28). -/
def State.advance (s : State) (i : Instr) (k : Nat) : State :=
  if s.nextStep i k < (program i).length then s.arrive i (s.nextStep i k) else s.complete i

/-- The engine at BUSY(i, k) runs primitive k and advances. A position past the program, which no run reaches but for a
SEGMAP's 0, completes. -/
def State.microStep (s : State) (i : Instr) (k : Nat) : State :=
  match (program i)[k]? with
  | none => s.complete i
  | some op =>
    match s.doPrim op.prim with
    | .done _ s' => s'.advance i k
    | .fatal s' => s'

/-- At most n micro-steps, as long as the engine is BUSY. -/
def State.microRun : Nat → State → State
  | 0, s => s
  | n + 1, s =>
    match s.phase with
    | .busy i k => State.microRun n (s.microStep i k)
    | .idle => s
    | .halted => s

/-- An IDLE engine takes a command word: it runs the command, or refuses the word (spec/60_exceptions.md R166). -/
def State.accept (s : State) (w : Word) : Host.Outcome State Fault Refusal :=
  match decode w with
  | .instr i => exec i s
  | .reject _ => .next s.refuse

/-- An IDLE engine: it takes the host's next word, or waits for one (spec/70_reset_and_hazards.md R178, R175). -/
def State.poll (s : State) : Host.Outcome State Fault Refusal :=
  match s.fetch with
  | some (w, s') => s'.accept w
  | none => .next s

end Sys2Proof.Machine
end

