-- ==== Sys2Proof/Machine/Step.lean ====
section
/-! DEFINITION. One step of the machine. -/

namespace Sys2Proof.Machine

/-- One step: an IDLE engine takes the host's next word and runs its command to the end (or waits); a BUSY engine runs its
next primitive; a HALTED engine has no step (spec/10_state.md R28, spec/60_exceptions.md R162; log entry 13). -/
def step (s : State) : Host.Outcome State Fault Refusal :=
  match s.phase with
  | .idle => s.poll
  | .busy i k => .next (s.microStep i k)
  | .halted => .fault .halted

/-- `s` with a table row's word as the next command word of the host, which is where a step of an IDLE engine takes it
from. -/
def State.withFetchWord (s : State) (nbits w : Nat) : State := s.handWord (tableWord nbits w)

end Sys2Proof.Machine
end

