-- ==== Sys2Proof/Machine/Assembler.lean ====
section
/-! DEFINITION. The assembler's syntax and the host's pseudo-instructions (spec/30_encoding.md R71, R72). -/

namespace Sys2Proof.Machine

/-- A pin's name (R71). -/
def pinName : Pin → String
  | .clk => "clk"
  | .dio => "dio"

/-- A byte as two hexadecimal digits with `0x` before them (R71). -/
def hexByte (b : Byte) : String :=
  "0x" ++ String.ofList [Nat.digitChar (b.toNat / 16), Nat.digitChar (b.toNat % 16)]

/-- The assembler's line of a command (R71). -/
def asmText : Instr → String
  | .pexp p => "pexp " ++ pinName p
  | .pdir p m => "pdir " ++ pinName p ++ ", " ++ dirString m
  | .pwr p l => "pwr " ++ pinName p ++ ", " ++ levelString l
  | .prd p => "prd " ++ pinName p
  | .start => "start"
  | .stop => "stop"
  | .wbyte b => "wbyte " ++ hexByte b
  | .disp c m => "disp " ++ toString c.toNat ++ ", " ++ hexByte m
  | .segmap d pt => "segmap " ++ toString d.toNat ++ (if pt then ", pt" else "")

/-- A line of the host's assembler: a command, or a pseudo-instruction (R72). -/
inductive AsmLine where
  | command (i : Instr)
  | init
  | ddig (c : BitVec 2) (d : BitVec 4) (pt : Bool)
  deriving DecidableEq, Repr

/-- The commands a line expands to (R72). `ddig` passes on the mask SEGMAP replies, and is only SEGMAP's refusal where the
ROM has no entry. -/
def AsmLine.expand : AsmLine → List Instr
  | .command i => [i]
  | .init => [.pexp .clk, .pexp .dio, .pdir .clk .out, .pdir .dio .out]
  | .ddig c d pt =>
    match segMask d pt with
    | some m => [.segmap d pt, .disp c m]
    | none => [.segmap d pt]

/-- The command words of a program (R71, R72). -/
def assemble (lines : List AsmLine) : List Word := lines.flatMap (fun l => l.expand.map encode)

end Sys2Proof.Machine
end

