-- ==== Sys2Proof/Machine/RefHost.lean ====
section
/-! DEFINITION. The reference host (spec/49_host_clock_application.md): the words the clock application hands to the engine.
It is not part of the block (spec/00_scope.md R6b); it is here as the host that can drive the model. -/

namespace Sys2Proof.Machine

/-- A time sample: hour 0 to 23, minute 0 to 59 (R143); no other sample is admitted (D21). -/
structure TimeSample where
  hour : Fin 24
  minute : Fin 60
  deriving DecidableEq, Repr

/-- The four digits of a sample (R144). -/
def TimeSample.digits (t : TimeSample) : List Nat :=
  [t.hour.val / 10, t.hour.val % 10, t.minute.val / 10, t.minute.val % 10]

/-- The separator flag of cycle k (R145). -/
def pointsFlag (k : Nat) : Bool := xor Config.points0 (k % 2 == 1)

/-- The masks sent to cells 0 to 3 (R146, R147). -/
def TimeSample.masks (t : TimeSample) (pt : Bool) : List Byte :=
  t.digits.filterMap (fun d => segMask (BitVec.ofNat 4 d) pt)

/-- The four `ddig` lines of one cycle (R146). -/
def TimeSample.cycle (t : TimeSample) (pt : Bool) : List AsmLine :=
  t.digits.zipIdx.map (fun x => .ddig (BitVec.ofNat 2 x.2) (BitVec.ofNat 4 x.1) pt)

/-- The words of one cycle (R147). -/
def TimeSample.cycleWords (t : TimeSample) (pt : Bool) : List Word := assemble (t.cycle pt)

/-- The words of the cycles from number k on, one for each sample (R148, R149). -/
def cyclesFrom : Nat → List TimeSample → List Word
  | _, [] => []
  | k, t :: ts => t.cycleWords (pointsFlag k) ++ cyclesFrom (k + 1) ts

/-- What the reference host hands over in its first cycles: `init`, then the cycles (R142). -/
def refHostWords (samples : List TimeSample) : List Word := assemble [.init] ++ cyclesFrom 0 samples

end Sys2Proof.Machine
end

