-- ==== Sys2Proof/Machine/Wire.lean ====
section
/-! DEFINITION. What the lines show, read off TRACE (spec/20_memory.md R52): start and stop conditions (spec/42_framing.md
R114), the bits at the rising clock edges, the minimum wait (spec/70_reset_and_hazards.md R191), and the event lists the
spec derives for the commands. -/

namespace Sys2Proof.Machine

/-- The registers of both pins, as the lines depend on them (spec/10_state.md R21). -/
structure Lines where
  clk : PinCfg
  dio : PinCfg
  deriving DecidableEq, Repr

/-- The lines' registers of a state. -/
def State.lines (s : State) : Lines := ⟨s.clk, s.dio⟩

/-- One pin's registers. -/
def Lines.pin (x : Lines) : Pin → PinCfg
  | .clk => x.clk
  | .dio => x.dio

/-- One pin's registers with f applied. -/
def Lines.update (x : Lines) (p : Pin) (f : PinCfg → PinCfg) : Lines :=
  match p with
  | .clk => { x with clk := f x.clk }
  | .dio => { x with dio := f x.dio }

/-- The pin registers after an event. -/
def Lines.after (x : Lines) : Event → Lines
  | .exported p => x.update p (fun q => { q with exp := true })
  | .dir p m => x.update p (fun q => { q with dir := m })
  | .write p l => x.update p (fun q => { q with lat := l })
  | .read _ _ => x
  | .wait _ => x

/-- A start or a stop condition on the wire (R114). -/
inductive Condition where
  | start
  | stop
  deriving DecidableEq, Repr

/-- The condition a DIO level change makes while CLK is high: high to low is a start, low to high a stop (R114). -/
def edge : Level → Level → List Condition
  | true, false => [.start]
  | false, true => [.stop]
  | true, true => []
  | false, false => []

/-- The levels ENV(CLK) and ENV(DIO) that undriven lines have (spec/10_state.md R21). -/
structure EnvLevels where
  clk : Level
  dio : Level
  deriving DecidableEq, Repr

/-- LINE(CLK) and LINE(DIO): the driven level, else the environment's (R21). -/
def Lines.levels (x : Lines) (e : EnvLevels) : EnvLevels := ⟨x.clk.driven.getD e.clk, x.dio.driven.getD e.dio⟩

/-- The condition between two moments of the wire: a DIO change, whoever makes it, while CLK is high before and after
(R114, spec/70_reset_and_hazards.md R187). -/
def wireEdge (a b : EnvLevels) : List Condition := if a.clk && b.clk then edge a.dio b.dio else []

/-- The conditions the wire shows in a run of events, in order (R187): `env n` is what the environment holds the undriven
lines at before event number n, and `env (n + 1)` after it. A change of a pin's direction counts, and so does an edge the
receiver makes (R103). How often the environment changes within one event is not told (log entry 17). -/
def Lines.wireConditions : (Nat → EnvLevels) → Lines → List Event → List Condition
  | _, _, [] => []
  | env, x, e :: es =>
    wireEdge (x.levels (env 0)) ((x.after e).levels (env 1)) ++
      Lines.wireConditions (fun n => env (n + 1)) (x.after e) es

/-- The condition an event makes between two levels the engine itself drives: both pins driven before and after (R114).
DESIGN CHOICE (log entry 17): an edge against the environment's level is not counted here; `Lines.wireConditions` counts it. -/
def Lines.condition (x y : Lines) : Option Condition :=
  if x.clk.driven = some true ∧ y.clk.driven = some true then
    match x.dio.driven, y.dio.driven with
    | some true, some false => some .start
    | some false, some true => some .stop
    | _, _ => none
  else none

/-- The conditions between levels the engine itself drives, in order (R114; log entry 17). -/
def Lines.conditions : Lines → List Event → List Condition
  | _, [] => []
  | x, e :: es => (x.condition (x.after e)).toList ++ Lines.conditions (x.after e) es

/-- The driven DIO level at each rising edge of the driven clock: what a receiver takes (spec/41_byte_write.md R95). -/
def Lines.bitsTaken : Lines → List Event → List (Option Level)
  | _, [] => []
  | x, e :: es =>
    (if x.clk.driven = some false ∧ (x.after e).clk.driven = some true then [(x.after e).dio.driven] else []) ++
      Lines.bitsTaken (x.after e) es

/-- The least time an event takes, in nanoseconds: a wait's bound (R190). -/
def Event.minWait : Event → Nat
  | .exported _ => 0
  | .dir _ _ => 0
  | .write _ _ => 0
  | .read _ _ => 0
  | .wait t => Config.duration t

/-- The minimum total wait of a run of events (R191). -/
def minWait (es : List Event) : Nat := (es.map Event.minWait).sum

/-- Whether the event is a platform call: every event but a wait. -/
def Event.isCall : Event → Bool
  | .exported _ => true
  | .dir _ _ => true
  | .write _ _ => true
  | .read _ _ => true
  | .wait _ => false

/-- The platform call an event is the record of: its pin and kind. A wait is none. -/
def Event.call : Event → Option (Pin × CallKind)
  | .exported p => some (p, .exportPin)
  | .dir p m => some (p, .setDir m)
  | .write p l => some (p, .write l)
  | .read p _ => some (p, .read)
  | .wait _ => none

/-- The platform calls of a run of events, in order. -/
def eventCalls (es : List Event) : List (Pin × CallKind) := es.filterMap Event.call

/-- The events before call number n of a run of events, waits included (V-W14, V-W15 of spec/95_test_vectors.md). -/
def eventsBeforeCall : Nat → List Event → List Event
  | _, [] => []
  | n, e :: es =>
    if e.isCall then
      match n with
      | 0 => []
      | m + 1 => e :: eventsBeforeCall m es
    else e :: eventsBeforeCall n es

/-- The events of a START that completes (R115). -/
def startEvents : List Event := [.write .clk true, .write .dio true, .write .dio false, .write .clk false]

/-- The events of a STOP that completes (R119). -/
def stopEvents : List Event := [.write .clk false, .write .dio false, .write .clk true, .write .dio true]

/-- The events of one data bit (R108). -/
def bitEvents (l : Level) : List Event :=
  [.write .clk false, .write .dio l, .wait .tSetup, .write .clk true, .wait .tHigh]

/-- The events of a ByteWrite of b that completes with sample v (R108). -/
def byteWriteEvents (b : Byte) (v : Int) : List Event :=
  bitEvents (b.getLsbD 0) ++ bitEvents (b.getLsbD 1) ++ bitEvents (b.getLsbD 2) ++ bitEvents (b.getLsbD 3) ++
  bitEvents (b.getLsbD 4) ++ bitEvents (b.getLsbD 5) ++ bitEvents (b.getLsbD 6) ++ bitEvents (b.getLsbD 7) ++
  [.write .clk false, .write .dio true, .write .clk true, .dir .dio .inp, .wait .tAck, .read .dio v] ++
  (if v = 0 then [.write .dio false] else []) ++
  [.wait .tAck, .dir .dio .out, .wait .tAck]

/-- The events of a DISP that completes with samples v0 to v3 (R122, R129). -/
def dispEvents (c : BitVec 2) (m : Byte) (v0 v1 v2 v3 : Int) : List Event :=
  startEvents ++ byteWriteEvents 0x40 v0 ++ stopEvents ++
  (startEvents ++ byteWriteEvents (0xC0 ||| c.setWidth 8) v1 ++ byteWriteEvents m v2 ++ stopEvents) ++
  (startEvents ++ byteWriteEvents 0x8F v3 ++ stopEvents)

end Sys2Proof.Machine
end

