-- ==== Sys2Proof/Safety.lean ====
section
/-! DEFINITION. What claims are stated in: a run that ends well, the environment's answers a completion needs, and the
invariant of the engine's state. -/

namespace Sys2Proof.Machine

/-- A run ends well in a state (spec/60_exceptions.md R162, spec/92_eei_decisions.md D35). -/
def State.endsWell (s : State) : Prop := s.fatal = false ∧ s.refused = false ∧ s.phase = .idle

/-- The platform answers OK to the next n calls, whatever they are. -/
def State.answersOk (s : State) (n : Nat) : Prop :=
  ∀ j, j < n → ∀ p c, s.outcomeAt p c (s.calls + j) = .ok

/-- The words that name no command, by their bits (spec/30_encoding.md R58, R67, R68, R69): a reserved opcode, a 1 in a bit
the opcode's format marks 0, or a SEGMAP digit above 9. -/
abbrev namesNoCommand (w : Word) : Prop :=
  (w.extractLsb' 12 4 = 0 ∨ 0xA ≤ (w.extractLsb' 12 4).toNat) ∨
  ((w.extractLsb' 12 4 = 1 ∨ w.extractLsb' 12 4 = 4) ∧ w &&& 0x0FFE ≠ 0) ∨
  ((w.extractLsb' 12 4 = 2 ∨ w.extractLsb' 12 4 = 3) ∧ w &&& 0x0FFC ≠ 0) ∨
  ((w.extractLsb' 12 4 = 5 ∨ w.extractLsb' 12 4 = 6) ∧ w &&& 0x0FFF ≠ 0) ∨
  (w.extractLsb' 12 4 = 7 ∧ w &&& 0x0F00 ≠ 0) ∨
  (w.extractLsb' 12 4 = 8 ∧ w &&& 0x0C00 ≠ 0) ∨
  (w.extractLsb' 12 4 = 9 ∧ w &&& 0x0FE0 ≠ 0) ∨
  (w.extractLsb' 12 4 = 9 ∧ 9 < (w &&& 0x000F).toNat)

/-- The position of the engine is one of R28's: a BUSY engine is at a primitive of a well-formed command's micro-program. -/
def Phase.legal : Phase → Prop
  | .idle => True
  | .busy i k => i.wellFormed = true ∧ k < (program i).length
  | .halted => True

/-- The invariant of R23, R26 and R28: FATAL and HALTED together, FCODE 0 exactly without a fault, the diagnostic exactly
with one, transient registers only while BUSY, a legal position. -/
structure State.Inv (s : State) : Prop where
  fatal_iff_halted : s.fatal = true ↔ s.phase = .halted
  fcode_iff : s.fcode = .noFault ↔ s.fatal = false
  diag_iff : s.diag = none ↔ s.fatal = false
  transient : (s.xfer.isSome = true ∨ s.rdv.isSome = true) → ∃ i k, s.phase = .busy i k
  legal : s.phase.legal

/-- The byte write that micro-step k of a command belongs to, if any: its byte, and the micro-step's number in it
(spec/41_byte_write.md R94, spec/43_display_sequence.md R122). -/
def byteWriteAt : Instr → Nat → Option (Byte × Nat)
  | .wbyte b, k => if k < 50 then some (b, k) else none
  | .disp c m, k =>
    if 4 ≤ k ∧ k < 54 then some (0x40, k - 4)
    else if 62 ≤ k ∧ k < 112 then some (0xC0 ||| c.setWidth 8, k - 62)
    else if 112 ≤ k ∧ k < 162 then some (m, k - 112)
    else if 170 ≤ k ∧ k < 220 then some (0x8F, k - 170)
    else none
  | .pexp _, _ => none
  | .pdir _ _, _ => none
  | .pwr _ _, _ => none
  | .prd _, _ => none
  | .start, _ => none
  | .stop, _ => none
  | .segmap _ _, _ => none

/-- SR, BC and ACKV are as R16 and R26 say: inside a byte write SR is its byte, BC the number of data bits already sent, and
ACKV is present once micro-step 45 has sampled it; outside every byte write none of them exists. -/
def State.xferFits (s : State) : Prop :=
  match s.phase with
  | .busy i k =>
    match byteWriteAt i k with
    | some (b, j) =>
      ∃ x, s.xfer = some x ∧ x.sr = b ∧ x.bc.val = min (j / 5) 8 ∧ (x.ackv.isSome = true ↔ 45 < j)
    | none => s.xfer = none
  | .idle => s.xfer = none
  | .halted => s.xfer = none

/-- t is where a command run from s halts when, of the events es it makes when nothing fails, call number n fails (R157,
R160): HALTED with FATAL, every event before that call appended and no other, no reply, the diagnostic and FCODE those of
that call, and the pin the call did not name with the effect of exactly those events. -/
structure State.HaltsAt (s : State) (es : List Event) (n : Nat) (t : State) : Prop where
  halted : t.phase = .halted ∧ t.fatal = true
  trace : t.trace = s.trace ++ eventsBeforeCall n es
  replies : t.replies = s.replies
  call : ∃ p c, (eventCalls es)[n]? = some (p, c) ∧ t.diag = some (p, c) ∧ t.fcode = callCode c ∧
    ∀ r, r ≠ p → t.pin r = ((eventsBeforeCall n es).foldl Lines.after s.lines).pin r

end Sys2Proof.Machine
end

