-- ==== Sys2Proof/Certificates/Slice0/Obligations.lean ====
section
/-! DEFINITION. The statements about the model, from the numbered rules of spec/. A next state is written out as the state
before with the fields the rules change; the fields not named are unchanged, so each such statement is also its command's
frame. The engine has no writable memory (R39), so no frame speaks of one. What the statements say of the fields calls,
reads, callScript, readScript, readValues, hostWords, rdv, diag, and of the replies as a list, is about the model's own
choices (log entries 2 to 6, 9, 10); no rule of the spec is cited for it. -/

open Sys2Proof Sys2Proof.Machine

/-! ### Encoding -/

/-- Words of spec/95_test_vectors.md, "Decoder", decode as listed there. -/
def Obligations.DecoderVectorWords : Prop :=
  decode 0x1001 = .instr (.pexp .dio) ∧ decode 0x2000 = .instr (.pdir .clk .inp) ∧
  decode 0x2003 = .instr (.pdir .dio .out) ∧ decode 0x3002 = .instr (.pwr .clk true) ∧
  decode 0x3001 = .instr (.pwr .dio false) ∧ decode 0x4001 = .instr (.prd .dio) ∧
  decode 0x5000 = .instr .start ∧ decode 0x6000 = .instr .stop ∧ decode 0x70FF = .instr (.wbyte 0xFF) ∧
  decode 0x83ED = .instr (.disp 3 0xED) ∧ decode 0x9019 = .instr (.segmap 9 true) ∧
  decode 0x0000 = .reject .reservedOpcode ∧ decode 0xA000 = .reject .reservedOpcode ∧
  decode 0x5001 = .reject .mustBeZero ∧ decode 0x8400 = .reject .mustBeZero ∧ decode 0x9020 = .reject .mustBeZero ∧
  decode 0x900A = .reject .digitAboveNine ∧ decode 0x901F = .reject .digitAboveNine

/-- R66, R76: decoding the word of a well-formed command gives the command back, every operand at every value. -/
def Obligations.DecodeOfEncodeIsTheCommand : Prop :=
  ∀ i : Instr, i.wellFormed = true → decode (encode i) = .instr i

/-- R70: a word that decodes to a command is that command's one word, and the command is well formed. -/
def Obligations.DecodedWordIsTheEncoding : Prop :=
  ∀ (w : Word) (i : Instr), decode w = .instr i → encode i = w ∧ i.wellFormed = true

/-- R66: a word is decoded as the row whose `w & mask = match`, and for SEGMAP whose `D <= 9`. -/
def Obligations.DecodeFollowsTheOpcodeMap : Prop :=
  ∀ w : Word,
    ((w &&& 0xFFFE = 0x1000) ↔ ∃ p, decode w = .instr (.pexp p)) ∧
    ((w &&& 0xFFFC = 0x2000) ↔ ∃ p m, decode w = .instr (.pdir p m)) ∧
    ((w &&& 0xFFFC = 0x3000) ↔ ∃ p l, decode w = .instr (.pwr p l)) ∧
    ((w &&& 0xFFFE = 0x4000) ↔ ∃ p, decode w = .instr (.prd p)) ∧
    ((w &&& 0xFFFF = 0x5000) ↔ decode w = .instr .start) ∧
    ((w &&& 0xFFFF = 0x6000) ↔ decode w = .instr .stop) ∧
    ((w &&& 0xFF00 = 0x7000) ↔ ∃ b, decode w = .instr (.wbyte b)) ∧
    ((w &&& 0xFC00 = 0x8000) ↔ ∃ c m, decode w = .instr (.disp c m)) ∧
    ((w &&& 0xFFE0 = 0x9000 ∧ (w &&& 0x000F).toNat ≤ 9) ↔ ∃ d pt, decode w = .instr (.segmap d pt))

/-! ### Reset -/

/-- R180: at process start the pin registers are whatever the launch gives, and FATAL, FCODE, REFUSED, TRACE and PHASE have
their reset values, for every choice. -/
def Obligations.LaunchHasTheResetValues : Prop :=
  ∀ (clk dio : PinCfg) (cs : List CallOutcome) (rs : List Nat) (rv : ReadValues) (ws : List Word),
    (State.launch clk dio cs rs rv ws).clk = clk ∧ (State.launch clk dio cs rs rv ws).dio = dio ∧
    (State.launch clk dio cs rs rv ws).fatal = false ∧ (State.launch clk dio cs rs rv ws).fcode.number = 0 ∧
    (State.launch clk dio cs rs rv ws).refused = false ∧ (State.launch clk dio cs rs rv ws).trace = [] ∧
    (State.launch clk dio cs rs rv ws).phase = .idle ∧ (State.launch clk dio cs rs rv ws).xfer = none

/-- Every launch, and so the reset state, satisfies the invariant. -/
def Obligations.EveryLaunchSatisfiesTheInvariant : Prop :=
  State.reset.Inv ∧ ∀ clk dio cs rs rv ws, (State.launch clk dio cs rs rv ws).Inv

/-- R17: the two pins are bound to distinct platform identifiers. -/
def Obligations.PinIdentifiersAreDistinct : Prop :=
  Config.platformId .clk = Config.clkPin ∧ Config.platformId .dio = Config.dioPin ∧
  Config.clkPin ≠ Config.dioPin

/-! ### The step -/

/-- A step of an IDLE engine whose host's next word decodes to a command runs exactly that command, on the state with the
word taken from the host. That one step runs the whole command is the model's granularity (DESIGN CHOICE, log entry 13):
R28 passes through BUSY(c, k), as `State.microStep` does; the list of host words is the model's too (log entry 4). -/
def Obligations.StepRunsTheDecodedCommand : Prop :=
  ∀ (s : State) (w : Word) (ws : List Word) (i : Instr),
    s.phase = .idle → s.hostWords = w :: ws → decode w = .instr i →
      step s = exec i { s with hostWords := ws }

/-- R67, R68, R69: a word with a reserved opcode, with a 1 in a bit its format marks 0, or a SEGMAP word with a digit above
9 (`namesNoCommand`, written on the word's bits) sets REFUSED and has no other effect on the engine, which stays IDLE, and
no reply. -/
def Obligations.RefusedWordOnlySetsRefused : Prop :=
  ∀ (s : State) (w : Word) (ws : List Word), s.phase = .idle → s.hostWords = w :: ws → namesNoCommand w →
    step s = .next { s with hostWords := ws, refused := true }

/-- An IDLE engine whose host has no word to hand over waits, keeping all its state (the model's reading of R175 and R178,
log entry 4). -/
def Obligations.IdleEngineWithoutAWordWaits : Prop :=
  ∀ s : State, s.phase = .idle → s.hostWords = [] → step s = .next s

/-- R162: in HALTED the engine has no step, and accepts no command. -/
def Obligations.HaltedEngineHasNoStep : Prop :=
  ∀ s : State, s.phase = .halted → step s = .fault .halted ∧ ∀ i, exec i s = .fault .halted

/-- R194: while a command is in progress no command word is taken, and a command handed over is not admitted. -/
def Obligations.BusyEngineTakesNoWord : Prop :=
  ∀ (s : State) (c : Instr) (k : Nat), s.phase = .busy c k →
    (∀ i, exec i s = .refused .busy) ∧ ∃ t, step s = .next t ∧ t.hostWords = s.hostWords

/-- R28, R104: one micro-step of a BUSY engine moves k up by one, arriving at the acknowledgment hold only where its
condition is true, or by two over the hold where its condition is false, or completes the command from its last primitive,
or halts. -/
def Obligations.MicroStepAdvancesByOnePrimitive : Prop :=
  ∀ (s : State) (i : Instr) (k : Nat), s.phase = .busy i k → k < (program i).length →
    ∃ t, step s = .next t ∧
      ((t.phase = .busy i (k + 1) ∧ k + 1 < (program i).length ∧
          ((program i)[k + 1]? = some ⟨.keep, .hold⟩ → t.acked = true)) ∨
       (t.phase = .busy i (k + 2) ∧ k + 2 < (program i).length ∧ t.acked = false ∧
          (program i)[k + 1]? = some ⟨.keep, .hold⟩) ∨
       (t.phase = .idle ∧ k + 1 = (program i).length) ∨
       (t.phase = .halted ∧ t.fatal = true))

/-- Running a command as a whole is running its primitives one at a time from BUSY(i, 0) until the engine is no longer BUSY. -/
def Obligations.CommandIsItsMicroSteps : Prop :=
  ∀ (s : State) (i : Instr), s.phase = .idle → i.wellFormed = true →
    exec i s = .next ((s.commence i).microRun ((program i).length + 1))

/-- R28, R153: every command handed to an IDLE engine completes, or halts with the fatal fault. -/
def Obligations.EveryCommandCompletesOrHalts : Prop :=
  ∀ (s : State) (i : Instr), s.phase = .idle →
    ∃ t, exec i s = .next t ∧ (t.phase = .idle ∨ (t.phase = .halted ∧ t.fatal = true))

/-! ### The pin commands -/

/-- R82: PEXP. When the platform answers OK, EXP of the pin becomes true and EXPORT(p) is appended; when it fails the call,
the fatal fault EXPORT_FAIL is raised: nothing is appended, there is no reply, the named pin is left unspecified (some q),
and nothing else changes. -/
def Obligations.PexpExportsThePin : Prop :=
  ∀ (s : State) (p : Pin), s.phase = .idle →
    (s.outcomeAt p .exportPin s.calls = .ok →
      exec (.pexp p) s =
        .next { s.setPin p { s.pin p with exp := true } with
          trace := s.trace ++ [.exported p], replies := s.replies ++ [.noValue], calls := s.calls + 1,
          xfer := none, rdv := none }) ∧
    (s.outcomeAt p .exportPin s.calls = .fail →
      ∃ q : PinCfg, exec (.pexp p) s =
        .next { s.setPin p q with
          fatal := true, fcode := .exportFail, phase := .halted, xfer := none, rdv := none,
          diag := some (p, .exportPin) })

/-- R83: PDIR. On an exported pin the platform answers OK for, DIR takes the direction and DIR(p, m) is appended; the line
then takes the latch of an output and is the environment's for an input (R21). On a pin that is not exported, or when the
platform fails the call, the fatal fault DIR_FAIL is raised, as in `PexpExportsThePin`. -/
def Obligations.PdirSetsTheDirection : Prop :=
  ∀ (s : State) (p : Pin) (m : Dir), s.phase = .idle →
    ((s.pin p).exp = true → s.outcomeAt p (.setDir m) s.calls = .ok →
      ∃ t, exec (.pdir p m) s = .next t ∧
        t = { s.setPin p { s.pin p with dir := m } with
          trace := s.trace ++ [.dir p m], replies := s.replies ++ [.noValue], calls := s.calls + 1,
          xfer := none, rdv := none } ∧
        ∀ env, t.line p env = if m = .out then levelValue (s.pin p).lat else env) ∧
    ((s.pin p).exp = false ∨ s.outcomeAt p (.setDir m) s.calls = .fail →
      ∃ q : PinCfg, exec (.pdir p m) s =
        .next { s.setPin p q with
          fatal := true, fcode := .dirFail, phase := .halted, xfer := none, rdv := none,
          diag := some (p, .setDir m) })

/-- R84: PWR. On an exported pin the platform answers OK for, LAT takes the level whatever the direction, and WRITE(p, l) is
appended; the line takes the level of an output at once, and is not driven for an input. On a pin that is not exported, or
when the platform fails the call, the fatal fault WRITE_FAIL is raised, as in `PexpExportsThePin`. -/
def Obligations.PwrWritesTheLatch : Prop :=
  ∀ (s : State) (p : Pin) (l : Level), s.phase = .idle →
    ((s.pin p).exp = true → s.outcomeAt p (.write l) s.calls = .ok →
      ∃ t, exec (.pwr p l) s = .next t ∧
        t = { s.setPin p { s.pin p with lat := l } with
          trace := s.trace ++ [.write p l], replies := s.replies ++ [.noValue], calls := s.calls + 1,
          xfer := none, rdv := none } ∧
        ∀ env, t.line p env = if (s.pin p).dir = .out then levelValue l else env) ∧
    ((s.pin p).exp = false ∨ s.outcomeAt p (.write l) s.calls = .fail →
      ∃ q : PinCfg, exec (.pwr p l) s =
        .next { s.setPin p q with
          fatal := true, fcode := .writeFail, phase := .halted, xfer := none, rdv := none,
          diag := some (p, .write l) })

/-- R85: PRD. On an exported pin the platform answers OK for, an output pin replies its latch, an input pin the
environment's next draw, a member of READ_VALUES; READ(p, v) is appended and no pin register is written. On a pin that is
not exported, or when the platform fails the call, the fatal fault READ_FAIL is raised, as in `PexpExportsThePin`. -/
def Obligations.PrdRepliesTheLevel : Prop :=
  ∀ (s : State) (p : Pin), s.phase = .idle →
    ((s.pin p).exp = true → s.outcomeAt p .read s.calls = .ok → (s.pin p).dir = .out →
      exec (.prd p) s =
        .next { s with
          trace := s.trace ++ [.read p (if (s.pin p).lat then 1 else 0)],
          replies := s.replies ++ [.level (if (s.pin p).lat then 1 else 0)],
          calls := s.calls + 1, xfer := none, rdv := none }) ∧
    ((s.pin p).exp = true → s.outcomeAt p .read s.calls = .ok → (s.pin p).dir = .inp →
      inReadValues s.readValues (s.envValueAt p s.reads) ∧
      exec (.prd p) s =
        .next { s with
          trace := s.trace ++ [.read p (s.envValueAt p s.reads)],
          replies := s.replies ++ [.level (s.envValueAt p s.reads)],
          calls := s.calls + 1, reads := s.reads + 1, xfer := none, rdv := none }) ∧
    ((s.pin p).exp = false ∨ s.outcomeAt p .read s.calls = .fail →
      ∃ q : PinCfg, exec (.prd p) s =
        .next { s.setPin p q with
          fatal := true, fcode := .readFail, phase := .halted, xfer := none, rdv := none, diag := some (p, .read) })

/-! ### Framing -/

/-- R113, R115: START writes CLK high, DIO high, DIO low, CLK low, and leaves both latches low. -/
def Obligations.StartMakesItsFourWrites : Prop :=
  ∀ s : State, s.phase = .idle → s.clk.exp = true → s.dio.exp = true → s.answersOk 4 →
    exec .start s =
      .next { s with
        clk := { s.clk with lat := false }, dio := { s.dio with lat := false },
        trace := s.trace ++ [.write .clk true, .write .dio true, .write .dio false, .write .clk false],
        replies := s.replies ++ [.noValue], calls := s.calls + 4, xfer := none, rdv := none }

/-- R117, R119: STOP writes CLK low, DIO low, CLK high, DIO high, and leaves both latches high. -/
def Obligations.StopMakesItsFourWrites : Prop :=
  ∀ s : State, s.phase = .idle → s.clk.exp = true → s.dio.exp = true → s.answersOk 4 →
    exec .stop s =
      .next { s with
        clk := { s.clk with lat := true }, dio := { s.dio with lat := true },
        trace := s.trace ++ [.write .clk false, .write .dio false, .write .clk true, .write .dio true],
        replies := s.replies ++ [.noValue], calls := s.calls + 4, xfer := none, rdv := none }

/-- R114, R115: with both pins exported outputs, START makes one start condition if DIO is high, and a stop condition
before it if DIO is low. -/
def Obligations.StartMakesAStartCondition : Prop :=
  ∀ s : State, s.phase = .idle → s.clk.exp = true → s.clk.dir = .out → s.dio.exp = true → s.dio.dir = .out →
    s.answersOk 4 →
    ∃ t es, exec .start s = .next t ∧ t.trace = s.trace ++ es ∧
      s.lines.conditions es = if s.dio.lat then [.start] else [.stop, .start]

/-- R118: with both pins exported outputs, STOP makes one stop condition and no start condition. -/
def Obligations.StopMakesAStopCondition : Prop :=
  ∀ s : State, s.phase = .idle → s.clk.exp = true → s.clk.dir = .out → s.dio.exp = true → s.dio.dir = .out →
    s.answersOk 4 →
    ∃ t es, exec .stop s = .next t ∧ t.trace = s.trace ++ es ∧ s.lines.conditions es = [.stop]

/-- R120, R157, R160: when call number k of START or STOP is the first to fail, the writes before it are done, with their
effect and their event, and none after it, and FCODE is WRITE_FAIL. -/
def Obligations.FramingHaltsAtTheFailingWrite : Prop :=
  ∀ (s : State) (k : Nat), s.phase = .idle → s.clk.exp = true → s.dio.exp = true → k < 4 → s.answersOk k →
    (∀ p c, s.outcomeAt p c (s.calls + k) = .fail) →
    (∃ t, exec .start s = .next t ∧ t.phase = .halted ∧ t.fatal = true ∧ t.fcode = .writeFail ∧
      t.trace = s.trace ++ startEvents.take k ∧ t.replies = s.replies ∧ s.HaltsAt startEvents k t) ∧
    (∃ t, exec .stop s = .next t ∧ t.phase = .halted ∧ t.fatal = true ∧ t.fcode = .writeFail ∧
      t.trace = s.trace ++ stopEvents.take k ∧ t.replies = s.replies ∧ s.HaltsAt stopEvents k t)

/-- R114, R187: the conditions the host can make by accident, whatever the environment holds an undriven line at. With CLK
driven high, a PDIR of DIO makes the condition between the level DIO had and the one it takes, and so does a PWR of DIO;
with both pins exported outputs, START makes its start condition, after a stop condition where DIO was low, and STOP its
stop condition. Edges against the environment's level count (`Lines.wireConditions`). -/
def Obligations.DioChangesWithTheClockHighAreConditions : Prop :=
  (∀ (s : State) (env : Nat → EnvLevels), s.phase = .idle → s.clk.driven = some true → s.dio.exp = true →
    (∀ m, s.outcomeAt .dio (.setDir m) s.calls = .ok →
      ∃ t es, exec (.pdir .dio m) s = .next t ∧ t.trace = s.trace ++ es ∧
        s.lines.wireConditions env es =
          edge (if s.dio.dir = .out then s.dio.lat else (env 0).dio) (if m = .out then s.dio.lat else (env 1).dio)) ∧
    (∀ l, s.outcomeAt .dio (.write l) s.calls = .ok →
      ∃ t es, exec (.pwr .dio l) s = .next t ∧ t.trace = s.trace ++ es ∧
        s.lines.wireConditions env es =
          edge (if s.dio.dir = .out then s.dio.lat else (env 0).dio) (if s.dio.dir = .out then l else (env 1).dio))) ∧
  (∀ (s : State) (env : Nat → EnvLevels), s.phase = .idle → s.clk.exp = true → s.clk.dir = .out → s.dio.exp = true →
    s.dio.dir = .out → s.answersOk 4 →
    (∃ t es, exec .start s = .next t ∧ t.trace = s.trace ++ es ∧
      s.lines.wireConditions env es = if s.dio.lat then [.start] else [.stop, .start]) ∧
    (∃ t es, exec .stop s = .next t ∧ t.trace = s.trace ++ es ∧ s.lines.wireConditions env es = [.stop]))

/-! ### The byte write -/

/-- R94, R106, R107, R108: WBYTE with every call answered OK appends the 50 or 49 events of R108, leaves CLK high, DIO an
output whose latch is 0 exactly after an acknowledgment, and replies the sample. -/
def Obligations.WbyteSendsTheByteAndRepliesTheSample : Prop :=
  ∀ (s : State) (b : Byte) (v : Int), s.phase = .idle → s.clk.exp = true → s.dio.exp = true →
    s.envValueAt .dio s.reads = v → s.answersOk (if v = 0 then 31 else 30) →
    exec (.wbyte b) s =
      .next { s with
        clk := { s.clk with lat := true }, dio := { s.dio with dir := .out, lat := decide (v ≠ 0) },
        trace := s.trace ++ byteWriteEvents b v, replies := s.replies ++ [.ack v],
        calls := s.calls + (if v = 0 then 31 else 30), reads := s.reads + 1, xfer := none, rdv := none }

/-- R108: a ByteWrite that completes has 50 events after an acknowledgment and 49 without, 31 or 30 of them platform calls,
and 19 waits. -/
def Obligations.ByteWriteEventCounts : Prop :=
  ∀ (b : Byte) (v : Int),
    (byteWriteEvents b v).length = (if v = 0 then 50 else 49) ∧
    (byteWriteEvents b v).countP Event.isCall = (if v = 0 then 31 else 30) ∧
    (byteWriteEvents b v).countP (fun e => !e.isCall) = 19

/-- R95, R96: with both pins exported outputs, the DIO levels at the rising clock edges of a WBYTE are the byte's bits,
least significant first, then the released high level; and the engine's own levels make no start and no stop condition. The
clause about conditions is derived and rests on log entry 17 (DESIGN CHOICE): R95 speaks of the data bits only, and the edges
of the direction changes and of the receiver in the acknowledgment window are not counted in it;
`AcknowledgmentPulseOnTheWire` counts them. -/
def Obligations.WbyteSendsBitsLeastSignificantFirst : Prop :=
  ∀ (s : State) (b : Byte), s.phase = .idle → s.clk.exp = true → s.clk.dir = .out → s.dio.exp = true →
    s.dio.dir = .out → s.answersOk (if s.envValueAt .dio s.reads = 0 then 31 else 30) →
    ∃ t es, exec (.wbyte b) s = .next t ∧ t.trace = s.trace ++ es ∧ s.lines.conditions es = [] ∧
      s.lines.bitsTaken es =
        [some (b.getLsbD 0), some (b.getLsbD 1), some (b.getLsbD 2), some (b.getLsbD 3), some (b.getLsbD 4),
          some (b.getLsbD 5), some (b.getLsbD 6), some (b.getLsbD 7), some true]

/-- R99, R188: standing at micro-step 44 to 48 of a byte write, in a WBYTE and in each of the four of a DISP, DIO is in
input mode and CLK's latch is high. -/
def Obligations.AcknowledgmentWindowReleasesDio : Prop :=
  ∀ (s t : State) (i : Instr) (b : Byte) (n k j : Nat), (s.commence i).microRun n = t → t.phase = .busy i k →
    byteWriteAt i k = some (b, j) → 44 ≤ j → j ≤ 48 → t.dio.dir = .inp ∧ t.clk.lat = true

/-- R103, R187, R188: the acknowledgment on the wire, direction changes and the receiver's edges counted. With both pins
exported outputs, a WBYTE whose sample is 0, and whose receiver pulls DIO low once, at any time up to the sample, and holds
it, shows one condition: the start condition the pulse's falling edge looks like. One whose receiver leaves the line high
shows none. -/
def Obligations.AcknowledgmentPulseOnTheWire : Prop :=
  ∀ (s : State) (b : Byte) (env : Nat → EnvLevels), s.phase = .idle → s.clk.exp = true → s.clk.dir = .out →
    s.dio.exp = true → s.dio.dir = .out →
    (∀ j, j ≤ 44 → s.envValueAt .dio s.reads = 0 → s.answersOk 31 → (∀ n, (env n).dio = decide (n ≤ j)) →
      ∃ t es, exec (.wbyte b) s = .next t ∧ t.trace = s.trace ++ es ∧ s.lines.wireConditions env es = [.start]) ∧
    (s.envValueAt .dio s.reads ≠ 0 → s.answersOk 30 → (∀ n, (env n).dio = true) →
      ∃ t es, exec (.wbyte b) s = .next t ∧ t.trace = s.trace ++ es ∧ s.lines.wireConditions env es = [])

/-- R109, R157, R160: when call number n of WBYTE is the first to fail, the events before that call are appended, with their
effect on the pins, and none after; FCODE is DIR_FAIL at a direction set, READ_FAIL at the read, WRITE_FAIL otherwise; there
is no reply. -/
def Obligations.WbyteHaltsAtTheFailingCall : Prop :=
  ∀ (s : State) (b : Byte) (v : Int) (n : Nat), s.phase = .idle → s.clk.exp = true → s.dio.exp = true →
    s.envValueAt .dio s.reads = v → n < (if v = 0 then 31 else 30) → s.answersOk n →
    (∀ p c, s.outcomeAt p c (s.calls + n) = .fail) →
    ∃ t, exec (.wbyte b) s = .next t ∧ t.phase = .halted ∧ t.fatal = true ∧
      t.trace = s.trace ++ eventsBeforeCall n (byteWriteEvents b v) ∧ t.replies = s.replies ∧
      t.fcode = (if n = 27 ∨ n = (if v = 0 then 30 else 29) then .dirFail
        else if n = 28 then .readFail else .writeFail) ∧
      s.HaltsAt (byteWriteEvents b v) n t

/-- R109, R120, R130: START, STOP, WBYTE and DISP on a pin that is not exported halt with WRITE_FAIL at their first write
to it: micro-step 0 for CLK, micro-step 1 for DIO. -/
def Obligations.LineCommandsNeedExportedPins : Prop :=
  ∀ (s : State) (i : Instr), s.phase = .idle →
    (i = .start ∨ i = .stop ∨ (∃ b, i = .wbyte b) ∨ (∃ c m, i = .disp c m)) →
    (s.clk.exp = false →
      ∃ t, exec i s = .next t ∧ t.phase = .halted ∧ t.fatal = true ∧ t.fcode = .writeFail ∧ t.trace = s.trace ∧
        t.dio = s.dio ∧ t.replies = s.replies) ∧
    (s.clk.exp = true → s.dio.exp = false → s.answersOk 1 →
      ∃ t l, exec i s = .next t ∧ t.phase = .halted ∧ t.fatal = true ∧ t.fcode = .writeFail ∧
        (i = .start ∨ (∃ c m, i = .disp c m) → l = true) ∧ (i = .stop ∨ (∃ b, i = .wbyte b) → l = false) ∧
        t.trace = s.trace ++ [.write .clk l] ∧
        t.clk = { s.clk with lat := l } ∧ t.replies = s.replies)

/-- R85, R102: whatever the platform answers, a WBYTE that completes replies one acknowledgment, and its value is a member
of READ_VALUES. -/
def Obligations.WbyteAcknowledgmentIsAReadValue : Prop :=
  ∀ (s t : State) (b : Byte), exec (.wbyte b) s = .next t → t.phase = .idle →
    ∃ v, inReadValues s.readValues v ∧ t.replies = s.replies ++ [.ack v]

/-! ### The display sequence -/

/-- R122, R129: DISP with every call answered OK sends its three transactions with bytes 0x40; 0xC0 | C, S; 0x8F, ends with
both latches high and DIO an output, and replies NONE whatever the four samples. -/
def Obligations.DispSendsItsThreeTransactions : Prop :=
  ∀ (s : State) (c : BitVec 2) (m : Byte) (v0 v1 v2 v3 : Int), s.phase = .idle → s.clk.exp = true →
    s.dio.exp = true →
    s.envValueAt .dio s.reads = v0 → s.envValueAt .dio (s.reads + 1) = v1 →
    s.envValueAt .dio (s.reads + 2) = v2 → s.envValueAt .dio (s.reads + 3) = v3 →
    s.answersOk (144 + (if v0 = 0 then 1 else 0) + (if v1 = 0 then 1 else 0) + (if v2 = 0 then 1 else 0) +
      (if v3 = 0 then 1 else 0)) →
    exec (.disp c m) s =
      .next { s with
        clk := { s.clk with lat := true }, dio := { s.dio with dir := .out, lat := true },
        trace := s.trace ++ dispEvents c m v0 v1 v2 v3, replies := s.replies ++ [.noValue],
        calls := s.calls + 144 + (if v0 = 0 then 1 else 0) + (if v1 = 0 then 1 else 0) + (if v2 = 0 then 1 else 0) +
          (if v3 = 0 then 1 else 0),
        reads := s.reads + 4, xfer := none, rdv := none }

/-- R130, R157, R160: when call number n of DISP is the first to fail, the engine halts there, with that call's code: the
events before it are appended, with their effect on the pins, and none after, and there is no reply. -/
def Obligations.DispHaltsAtTheFailingCall : Prop :=
  ∀ (s : State) (c : BitVec 2) (m : Byte) (v0 v1 v2 v3 : Int) (n : Nat), s.phase = .idle → s.clk.exp = true →
    s.dio.exp = true →
    s.envValueAt .dio s.reads = v0 → s.envValueAt .dio (s.reads + 1) = v1 →
    s.envValueAt .dio (s.reads + 2) = v2 → s.envValueAt .dio (s.reads + 3) = v3 →
    n < 144 + (if v0 = 0 then 1 else 0) + (if v1 = 0 then 1 else 0) + (if v2 = 0 then 1 else 0) +
      (if v3 = 0 then 1 else 0) →
    s.answersOk n → (∀ p k, s.outcomeAt p k (s.calls + n) = .fail) →
    ∃ t, exec (.disp c m) s = .next t ∧ s.HaltsAt (dispEvents c m v0 v1 v2 v3) n t

/-- R129: the events and platform calls of a DISP that completes: 220 and 144, one more for each acknowledged byte. -/
def Obligations.DispEventCounts : Prop :=
  ∀ (c : BitVec 2) (m : Byte) (v0 v1 v2 v3 : Int),
    (dispEvents c m v0 v1 v2 v3).length = 220 + ([v0, v1, v2, v3].countP (fun v => decide (v = 0))) ∧
    (dispEvents c m v0 v1 v2 v3).countP Event.isCall = 144 + ([v0, v1, v2, v3].countP (fun v => decide (v = 0)))

/-- R128, R187: with both pins exported outputs and DIO high, the levels the engine itself drives in a DISP make three start
and three stop conditions, in turn; with DIO low a stop condition comes before them. Engine-driven edges only are counted:
those of the direction changes and of the receiver in the four acknowledgment windows are not (DESIGN CHOICE, log entry
17). -/
def Obligations.DispFramesThreeTransactions : Prop :=
  ∀ (s : State) (c : BitVec 2) (m : Byte), s.phase = .idle → s.clk.exp = true → s.clk.dir = .out →
    s.dio.exp = true → s.dio.dir = .out → s.answersOk 148 →
    ∃ t es, exec (.disp c m) s = .next t ∧ t.trace = s.trace ++ es ∧
      s.lines.conditions es =
        (if s.dio.lat then [] else [.stop]) ++ [.start, .stop, .start, .stop, .start, .stop]

/-- R124, R125, R195: the serial command bytes, exact in 8 bits. -/
def Obligations.SerialCommandBytes : Prop :=
  autoAddressCommand = 0x40 ∧ displayControlByte = 0x8F ∧ displayControlByte.toNat = 0x88 + Config.brightness.toNat ∧
  ∀ c : BitVec 2, (addressByte c).toNat = 0xC0 + c.toNat

/-! ### The segment decoder -/

/-- R132, R134, R138: SEGMAP replies the mask of its digit, with 0x80 OR-ed in when the separator is on, and touches
nothing else. -/
def Obligations.SegmapRepliesTheMask : Prop :=
  ∀ (s : State) (d : BitVec 4) (pt : Bool) (m : Byte), s.phase = .idle →
    [0x3F, 0x06, 0x5B, 0x4F, 0x66, 0x6D, 0xFD, 0x07, 0x7F, 0x6F][d.toNat]? = some m →
    exec (.segmap d pt) s =
      .next { s with replies := s.replies ++ [.mask (if pt then m ||| 0x80 else m)], xfer := none, rdv := none }

/-- `exec` of a SEGMAP with a digit above 9 takes R166's refusal: REFUSED is set and nothing else happens. This is the model's
choice (DESIGN CHOICE, log entry 20): no word decodes to such a command, since R135 has the decoder refuse it. -/
def Obligations.SegmapAboveNineIsRefused : Prop :=
  ∀ (s : State) (d : BitVec 4) (pt : Bool), s.phase = .idle → 9 < d.toNat →
    exec (.segmap d pt) s = .next { s with refused := true }

/-- R137: the digit is recovered from a SEGMAP reply whatever the separator flag was, so the masks are pairwise distinct
with and without the overlay; and the twenty replies are nineteen values. -/
def Obligations.SegmentMasksAreUnique : Prop :=
  (∀ (d e : BitVec 4) (pt pu : Bool) (m : Byte), segMask d pt = some m → segMask e pu = some m → d = e) ∧
  ((List.range 10).flatMap (fun d => [segMask (BitVec.ofNat 4 d) false, segMask (BitVec.ofNat 4 d) true])).dedup.length
    = 19

/-! ### Frames -/

/-- The host's side of the state, the environment's answers and READ_VALUES, and REFUSED, are no command's to change,
completed or halted; only a SEGMAP above 9 sets REFUSED. No command but PRD, WBYTE and DISP draws from the environment. -/
def Obligations.CommandsLeaveTheHostSideAlone : Prop :=
  ∀ (s t : State) (i : Instr), exec i s = .next t →
    t.hostWords = s.hostWords ∧ t.callScript = s.callScript ∧ t.readScript = s.readScript ∧
    t.readValues = s.readValues ∧ (i.wellFormed = true → t.refused = s.refused) ∧
    ((∀ p b c m, i ≠ .prd p ∧ i ≠ .wbyte b ∧ i ≠ .disp c m) → t.reads = s.reads)

/-- A pin command that completes changes one register of one pin: PEXP its EXP, PDIR its DIR, PWR its LAT, PRD none; the
other pin, FATAL, FCODE and the diagnostic are unchanged. One that halts leaves the other pin, TRACE and the replies. -/
def Obligations.PinCommandsFrame : Prop :=
  ∀ (s t : State) (i : Instr) (p r : Pin), r ≠ p →
    (i = .pexp p ∨ (∃ m, i = .pdir p m) ∨ (∃ l, i = .pwr p l) ∨ i = .prd p) → exec i s = .next t →
    t.pin r = s.pin r ∧
    (t.phase = .halted → t.trace = s.trace ∧ t.replies = s.replies ∧ t.calls = s.calls ∧ t.reads = s.reads) ∧
    (t.phase = .idle →
      t.fatal = s.fatal ∧ t.fcode = s.fcode ∧ t.diag = s.diag ∧
      (i ≠ .pexp p → (t.pin p).exp = (s.pin p).exp) ∧
      ((∀ m, i ≠ .pdir p m) → (t.pin p).dir = (s.pin p).dir) ∧
      ((∀ l, i ≠ .pwr p l) → (t.pin p).lat = (s.pin p).lat))

/-- START, STOP, WBYTE and DISP, when they complete, leave EXP of both pins and DIR of CLK as they were (START and STOP DIR
of DIO too), and FATAL, FCODE and the diagnostic. When they halt, the pin that the diagnostic does not name keeps its EXP,
CLK its DIR, and there is no reply. -/
def Obligations.LineCommandsFrame : Prop :=
  ∀ (s t : State) (i : Instr), (i = .start ∨ i = .stop ∨ (∃ b, i = .wbyte b) ∨ (∃ c m, i = .disp c m)) →
    exec i s = .next t →
    (t.phase = .idle →
      t.clk.exp = s.clk.exp ∧ t.dio.exp = s.dio.exp ∧ t.clk.dir = s.clk.dir ∧
      (i = .start ∨ i = .stop → t.dio.dir = s.dio.dir) ∧
      t.fatal = s.fatal ∧ t.fcode = s.fcode ∧ t.diag = s.diag) ∧
    (t.phase = .halted →
      t.replies = s.replies ∧ ∃ p c, t.diag = some (p, c) ∧ ∀ r, r ≠ p →
        (t.pin r).exp = (s.pin r).exp ∧ (r = .clk → (t.pin r).dir = (s.pin r).dir))

/-- SEGMAP, whatever its digit, changes no pin, no event, no fault state and no draw count (R132). -/
def Obligations.SegmapFrame : Prop :=
  ∀ (s t : State) (d : BitVec 4) (pt : Bool), exec (.segmap d pt) s = .next t →
    t.clk = s.clk ∧ t.dio = s.dio ∧ t.trace = s.trace ∧ t.fatal = s.fatal ∧ t.fcode = s.fcode ∧ t.diag = s.diag ∧
    t.calls = s.calls ∧ t.reads = s.reads ∧ t.phase = s.phase

/-! ### Whole-machine rules -/

/-- R23, R26, R28: every step keeps the invariant: FATAL, FCODE and HALTED go together, the transient registers exist only
while a command is in progress, and the position stays legal. -/
def Obligations.EveryStepKeepsTheInvariant : Prop :=
  ∀ s t : State, s.Inv → step s = .next t → t.Inv

/-- R16, R26: SR, BC and ACKV exist exactly while a byte write runs: SR is its byte, BC the number of data bits already sent,
and ACKV is present once the sample is taken (at which micro-step each changes is DEDUCED, log entry 14). Every step keeps
this; it holds at every launch, and where a command commences. -/
def Obligations.TransientRegistersTrackTheByteWrite : Prop :=
  (∀ clk dio cs rs rv ws, (State.launch clk dio cs rs rv ws).xferFits) ∧
  (∀ s t : State, s.xferFits → step s = .next t → t.xferFits) ∧
  (∀ (s : State) (i : Instr), s.xfer = none → (s.commence i).xferFits)

/-- R25: every step only appends to TRACE. -/
def Obligations.EveryStepOnlyAppendsToTrace : Prop :=
  ∀ s t : State, step s = .next t → s.trace <+: t.trace

/-- R23, R24: once true, FATAL and REFUSED are never cleared. -/
def Obligations.FatalAndRefusedAreNeverCleared : Prop :=
  ∀ s t : State, step s = .next t →
    (s.fatal = true → t.fatal = true) ∧ (s.refused = true → t.refused = true)

/-- R18: no step that does not halt writes EXP false. -/
def Obligations.ExportIsNeverUndone : Prop :=
  ∀ (s t : State) (p : Pin), step s = .next t → t.phase ≠ .halted → (s.pin p).exp = true → (t.pin p).exp = true

/-- R47, R81, R160: TRACE accounts for the pins: replaying the events a step appended, from the pin registers before it,
gives the pin registers after it, in every step that does not halt; and in a step that halts, those of the pin that the
failed call, which the diagnostic and FCODE name, did not name. -/
def Obligations.TraceAccountsForThePins : Prop :=
  ∀ s t : State, step s = .next t →
    (t.phase ≠ .halted → ∃ es, t.trace = s.trace ++ es ∧ es.foldl Lines.after s.lines = t.lines) ∧
    (t.phase = .halted → ∃ es p c, t.trace = s.trace ++ es ∧ t.diag = some (p, c) ∧ t.fcode = callCode c ∧
      ∀ r, r ≠ p → t.pin r = (es.foldl Lines.after s.lines).pin r)

/-- R157, R160: the platform's outcomes decide only where a command stops: two runs of one command from states that differ
only in the outcomes have traces of which one begins the other. -/
def Obligations.OutcomesOnlyDecideWhereTraceStops : Prop :=
  ∀ (s t u : State) (i : Instr) (cs : List CallOutcome), exec i s = .next t →
    exec i { s with callScript := cs } = .next u → t.trace <+: u.trace ∨ u.trace <+: t.trace

/-- R161: which commands raise which code. -/
def Obligations.FaultCodesByCommand : Prop :=
  ∀ (s t : State) (i : Instr), exec i s = .next t → t.phase = .halted →
    t.fatal = true ∧
    ((∃ p, i = .pexp p) → t.fcode = .exportFail) ∧
    ((∃ p m, i = .pdir p m) → t.fcode = .dirFail) ∧
    ((∃ p l, i = .pwr p l) ∨ i = .start ∨ i = .stop → t.fcode = .writeFail) ∧
    ((∃ p, i = .prd p) → t.fcode = .readFail) ∧
    ((∃ b, i = .wbyte b) ∨ (∃ c m, i = .disp c m) →
      t.fcode = .dirFail ∨ t.fcode = .writeFail ∨ t.fcode = .readFail) ∧
    (∀ d pt, i ≠ .segmap d pt)

/-- R159: a refusal and a fatal fault never arise from the same command word. -/
def Obligations.RefusalAndFaultNeverTogether : Prop :=
  ∀ s t : State, step s = .next t → s.refused = false → t.refused = true →
    t.fatal = s.fatal ∧ t.fcode = s.fcode ∧ t.phase = .idle ∧ t.trace = s.trace ∧ t.replies = s.replies ∧
    t.clk = s.clk ∧ t.dio = s.dio

/-- R75: a well-formed command that completes hands back exactly one reply, of its kind; one that halts hands back none. -/
def Obligations.EveryCommandRepliesOnce : Prop :=
  ∀ (s t : State) (i : Instr), i.wellFormed = true → exec i s = .next t →
    (t.phase = .halted → t.replies = s.replies) ∧
    (t.phase = .idle → ∃ r, t.replies = s.replies ++ [r] ∧
      match i with
      | .wbyte _ => ∃ v, r = .ack v
      | .prd _ => ∃ v, r = .level v
      | .segmap d pt => ∃ m, segMask d pt = some m ∧ r = .mask m
      | .pexp _ => r = .noValue
      | .pdir _ _ => r = .noValue
      | .pwr _ _ => r = .noValue
      | .start => r = .noValue
      | .stop => r = .noValue
      | .disp _ _ => r = .noValue)

/-- R191: the least total wait of a WBYTE's and of a DISP's events, in nanoseconds. The figures are nominal lower bounds: R191
says about 8 and about 150 microseconds, and that they are exact numbers here is the model's choice (log entry 16). -/
def Obligations.MinimumWaits : Prop :=
  ∀ (b : Byte) (v : Int) (c : BitVec 2) (m : Byte) (v0 v1 v2 v3 : Int),
    minWait (byteWriteEvents b v) = 8 * Config.tSetup + 8000 + 150000 ∧
    minWait (dispEvents c m v0 v1 v2 v3) = 32 * Config.tSetup + 32000 + 600000 ∧
    minWait startEvents = 0 ∧ minWait stopEvents = 0

/-! ### The reference host -/

/-- R144: the digits of a time sample are its hour and minute, tens first, each in 0 to 9, the hour's tens in 0 to 2 and the
minute's in 0 to 5. -/
def Obligations.TimeDigitsAreDecimal : Prop :=
  ∀ t : TimeSample, ∃ d0 d1 d2 d3, t.digits = [d0, d1, d2, d3] ∧ d0 ≤ 2 ∧ d1 ≤ 9 ∧ d2 ≤ 5 ∧ d3 ≤ 9 ∧
    t.hour.val = 10 * d0 + d1 ∧ t.minute.val = 10 * d2 + d3

/-- R145, R151: the separator flag alternates every cycle; with it set all four masks have bit 7, with it clear exactly the
masks of digit 6 do. -/
def Obligations.SeparatorInTheMasks : Prop :=
  (∀ k, pointsFlag 0 = Config.points0 ∧ pointsFlag (k + 1) = !(pointsFlag k)) ∧
  ∀ t : TimeSample, (t.masks true).length = 4 ∧ (∀ m ∈ t.masks true, m.getLsbD 7 = true) ∧
    (t.masks false).map (fun m => m.getLsbD 7) = t.digits.map (fun d => decide (d = 6))

/-- R72, R147: the words of `init`, and the eight words of one refresh cycle. -/
def Obligations.ReferenceHostWords : Prop :=
  assemble [.init] = [0x1000, 0x1001, 0x2002, 0x2003] ∧
  ∀ (t : TimeSample) (pt : Bool), ∃ (d0 d1 d2 d3 : BitVec 4) (m0 m1 m2 m3 : Byte),
    t.digits = [d0.toNat, d1.toNat, d2.toNat, d3.toNat] ∧
    segMask d0 pt = some m0 ∧ segMask d1 pt = some m1 ∧ segMask d2 pt = some m2 ∧ segMask d3 pt = some m3 ∧
    t.cycleWords pt =
      [(if pt then 0x9010 else 0x9000) ||| d0.setWidth 16, 0x8000 ||| m0.setWidth 16,
       (if pt then 0x9010 else 0x9000) ||| d1.setWidth 16, 0x8100 ||| m1.setWidth 16,
       (if pt then 0x9010 else 0x9000) ||| d2.setWidth 16, 0x8200 ||| m2.setWidth 16,
       (if pt then 0x9010 else 0x9000) ||| d3.setWidth 16, 0x8300 ||| m3.setWidth 16]
end

