-- ==== Sys2Proof/Laws/State.lean ====
section
/-! SUPPORT. One lemma for each field of State under each named update of it, so that no proof unfolds a record update. -/

namespace Sys2Proof.Machine

@[simp] theorem State.setPin_fatal (s : State) (p : Pin) (q : PinCfg) : (s.setPin p q).fatal = s.fatal := by cases p <;> rfl
@[simp] theorem State.setPin_fcode (s : State) (p : Pin) (q : PinCfg) : (s.setPin p q).fcode = s.fcode := by cases p <;> rfl
@[simp] theorem State.setPin_refused (s : State) (p : Pin) (q : PinCfg) : (s.setPin p q).refused = s.refused := by cases p <;> rfl
@[simp] theorem State.setPin_trace (s : State) (p : Pin) (q : PinCfg) : (s.setPin p q).trace = s.trace := by cases p <;> rfl
@[simp] theorem State.setPin_phase (s : State) (p : Pin) (q : PinCfg) : (s.setPin p q).phase = s.phase := by cases p <;> rfl
@[simp] theorem State.setPin_xfer (s : State) (p : Pin) (q : PinCfg) : (s.setPin p q).xfer = s.xfer := by cases p <;> rfl
@[simp] theorem State.setPin_rdv (s : State) (p : Pin) (q : PinCfg) : (s.setPin p q).rdv = s.rdv := by cases p <;> rfl
@[simp] theorem State.setPin_replies (s : State) (p : Pin) (q : PinCfg) : (s.setPin p q).replies = s.replies := by cases p <;> rfl
@[simp] theorem State.setPin_diag (s : State) (p : Pin) (q : PinCfg) : (s.setPin p q).diag = s.diag := by cases p <;> rfl
@[simp] theorem State.setPin_hostWords (s : State) (p : Pin) (q : PinCfg) : (s.setPin p q).hostWords = s.hostWords := by cases p <;> rfl
@[simp] theorem State.setPin_calls (s : State) (p : Pin) (q : PinCfg) : (s.setPin p q).calls = s.calls := by cases p <;> rfl
@[simp] theorem State.setPin_reads (s : State) (p : Pin) (q : PinCfg) : (s.setPin p q).reads = s.reads := by cases p <;> rfl
@[simp] theorem State.setPin_callScript (s : State) (p : Pin) (q : PinCfg) : (s.setPin p q).callScript = s.callScript := by cases p <;> rfl
@[simp] theorem State.setPin_readScript (s : State) (p : Pin) (q : PinCfg) : (s.setPin p q).readScript = s.readScript := by cases p <;> rfl
@[simp] theorem State.setPin_readValues (s : State) (p : Pin) (q : PinCfg) : (s.setPin p q).readValues = s.readValues := by cases p <;> rfl

@[simp] theorem State.emit_clk (s : State) (e : Event) : (s.emit e).clk = s.clk := rfl
@[simp] theorem State.emit_dio (s : State) (e : Event) : (s.emit e).dio = s.dio := rfl
@[simp] theorem State.emit_fatal (s : State) (e : Event) : (s.emit e).fatal = s.fatal := rfl
@[simp] theorem State.emit_fcode (s : State) (e : Event) : (s.emit e).fcode = s.fcode := rfl
@[simp] theorem State.emit_refused (s : State) (e : Event) : (s.emit e).refused = s.refused := rfl
@[simp] theorem State.emit_trace (s : State) (e : Event) : (s.emit e).trace = s.trace ++ [e] := rfl
@[simp] theorem State.emit_phase (s : State) (e : Event) : (s.emit e).phase = s.phase := rfl
@[simp] theorem State.emit_xfer (s : State) (e : Event) : (s.emit e).xfer = s.xfer := rfl
@[simp] theorem State.emit_rdv (s : State) (e : Event) : (s.emit e).rdv = s.rdv := rfl
@[simp] theorem State.emit_replies (s : State) (e : Event) : (s.emit e).replies = s.replies := rfl
@[simp] theorem State.emit_diag (s : State) (e : Event) : (s.emit e).diag = s.diag := rfl
@[simp] theorem State.emit_hostWords (s : State) (e : Event) : (s.emit e).hostWords = s.hostWords := rfl
@[simp] theorem State.emit_calls (s : State) (e : Event) : (s.emit e).calls = s.calls := rfl
@[simp] theorem State.emit_reads (s : State) (e : Event) : (s.emit e).reads = s.reads := rfl
@[simp] theorem State.emit_callScript (s : State) (e : Event) : (s.emit e).callScript = s.callScript := rfl
@[simp] theorem State.emit_readScript (s : State) (e : Event) : (s.emit e).readScript = s.readScript := rfl
@[simp] theorem State.emit_readValues (s : State) (e : Event) : (s.emit e).readValues = s.readValues := rfl

@[simp] theorem State.countCall_clk (s : State) : (s.countCall).clk = s.clk := rfl
@[simp] theorem State.countCall_dio (s : State) : (s.countCall).dio = s.dio := rfl
@[simp] theorem State.countCall_fatal (s : State) : (s.countCall).fatal = s.fatal := rfl
@[simp] theorem State.countCall_fcode (s : State) : (s.countCall).fcode = s.fcode := rfl
@[simp] theorem State.countCall_refused (s : State) : (s.countCall).refused = s.refused := rfl
@[simp] theorem State.countCall_trace (s : State) : (s.countCall).trace = s.trace := rfl
@[simp] theorem State.countCall_phase (s : State) : (s.countCall).phase = s.phase := rfl
@[simp] theorem State.countCall_xfer (s : State) : (s.countCall).xfer = s.xfer := rfl
@[simp] theorem State.countCall_rdv (s : State) : (s.countCall).rdv = s.rdv := rfl
@[simp] theorem State.countCall_replies (s : State) : (s.countCall).replies = s.replies := rfl
@[simp] theorem State.countCall_diag (s : State) : (s.countCall).diag = s.diag := rfl
@[simp] theorem State.countCall_hostWords (s : State) : (s.countCall).hostWords = s.hostWords := rfl
@[simp] theorem State.countCall_calls (s : State) : (s.countCall).calls = s.calls + 1 := rfl
@[simp] theorem State.countCall_reads (s : State) : (s.countCall).reads = s.reads := rfl
@[simp] theorem State.countCall_callScript (s : State) : (s.countCall).callScript = s.callScript := rfl
@[simp] theorem State.countCall_readScript (s : State) : (s.countCall).readScript = s.readScript := rfl
@[simp] theorem State.countCall_readValues (s : State) : (s.countCall).readValues = s.readValues := rfl

@[simp] theorem State.countRead_clk (s : State) : (s.countRead).clk = s.clk := rfl
@[simp] theorem State.countRead_dio (s : State) : (s.countRead).dio = s.dio := rfl
@[simp] theorem State.countRead_fatal (s : State) : (s.countRead).fatal = s.fatal := rfl
@[simp] theorem State.countRead_fcode (s : State) : (s.countRead).fcode = s.fcode := rfl
@[simp] theorem State.countRead_refused (s : State) : (s.countRead).refused = s.refused := rfl
@[simp] theorem State.countRead_trace (s : State) : (s.countRead).trace = s.trace := rfl
@[simp] theorem State.countRead_phase (s : State) : (s.countRead).phase = s.phase := rfl
@[simp] theorem State.countRead_xfer (s : State) : (s.countRead).xfer = s.xfer := rfl
@[simp] theorem State.countRead_rdv (s : State) : (s.countRead).rdv = s.rdv := rfl
@[simp] theorem State.countRead_replies (s : State) : (s.countRead).replies = s.replies := rfl
@[simp] theorem State.countRead_diag (s : State) : (s.countRead).diag = s.diag := rfl
@[simp] theorem State.countRead_hostWords (s : State) : (s.countRead).hostWords = s.hostWords := rfl
@[simp] theorem State.countRead_calls (s : State) : (s.countRead).calls = s.calls := rfl
@[simp] theorem State.countRead_reads (s : State) : (s.countRead).reads = s.reads + 1 := rfl
@[simp] theorem State.countRead_callScript (s : State) : (s.countRead).callScript = s.callScript := rfl
@[simp] theorem State.countRead_readScript (s : State) : (s.countRead).readScript = s.readScript := rfl
@[simp] theorem State.countRead_readValues (s : State) : (s.countRead).readValues = s.readValues := rfl

@[simp] theorem State.raiseFatal_fatal (s : State) (p : Pin) (c : CallKind) : (s.raiseFatal p c).fatal = true := by cases p <;> rfl
@[simp] theorem State.raiseFatal_fcode (s : State) (p : Pin) (c : CallKind) : (s.raiseFatal p c).fcode = callCode c := by cases p <;> rfl
@[simp] theorem State.raiseFatal_refused (s : State) (p : Pin) (c : CallKind) : (s.raiseFatal p c).refused = s.refused := by cases p <;> rfl
@[simp] theorem State.raiseFatal_trace (s : State) (p : Pin) (c : CallKind) : (s.raiseFatal p c).trace = s.trace := by cases p <;> rfl
@[simp] theorem State.raiseFatal_phase (s : State) (p : Pin) (c : CallKind) : (s.raiseFatal p c).phase = .halted := by cases p <;> rfl
@[simp] theorem State.raiseFatal_xfer (s : State) (p : Pin) (c : CallKind) : (s.raiseFatal p c).xfer = none := by cases p <;> rfl
@[simp] theorem State.raiseFatal_rdv (s : State) (p : Pin) (c : CallKind) : (s.raiseFatal p c).rdv = none := by cases p <;> rfl
@[simp] theorem State.raiseFatal_replies (s : State) (p : Pin) (c : CallKind) : (s.raiseFatal p c).replies = s.replies := by cases p <;> rfl
@[simp] theorem State.raiseFatal_diag (s : State) (p : Pin) (c : CallKind) : (s.raiseFatal p c).diag = some (p, c) := by cases p <;> rfl
@[simp] theorem State.raiseFatal_hostWords (s : State) (p : Pin) (c : CallKind) : (s.raiseFatal p c).hostWords = s.hostWords := by cases p <;> rfl
@[simp] theorem State.raiseFatal_calls (s : State) (p : Pin) (c : CallKind) : (s.raiseFatal p c).calls = s.calls := by cases p <;> rfl
@[simp] theorem State.raiseFatal_reads (s : State) (p : Pin) (c : CallKind) : (s.raiseFatal p c).reads = s.reads := by cases p <;> rfl
@[simp] theorem State.raiseFatal_callScript (s : State) (p : Pin) (c : CallKind) : (s.raiseFatal p c).callScript = s.callScript := by cases p <;> rfl
@[simp] theorem State.raiseFatal_readScript (s : State) (p : Pin) (c : CallKind) : (s.raiseFatal p c).readScript = s.readScript := by cases p <;> rfl
@[simp] theorem State.raiseFatal_readValues (s : State) (p : Pin) (c : CallKind) : (s.raiseFatal p c).readValues = s.readValues := by cases p <;> rfl

@[simp] theorem State.refuse_clk (s : State) : (s.refuse).clk = s.clk := rfl
@[simp] theorem State.refuse_dio (s : State) : (s.refuse).dio = s.dio := rfl
@[simp] theorem State.refuse_fatal (s : State) : (s.refuse).fatal = s.fatal := rfl
@[simp] theorem State.refuse_fcode (s : State) : (s.refuse).fcode = s.fcode := rfl
@[simp] theorem State.refuse_refused (s : State) : (s.refuse).refused = true := rfl
@[simp] theorem State.refuse_trace (s : State) : (s.refuse).trace = s.trace := rfl
@[simp] theorem State.refuse_phase (s : State) : (s.refuse).phase = .idle := rfl
@[simp] theorem State.refuse_xfer (s : State) : (s.refuse).xfer = s.xfer := rfl
@[simp] theorem State.refuse_rdv (s : State) : (s.refuse).rdv = s.rdv := rfl
@[simp] theorem State.refuse_replies (s : State) : (s.refuse).replies = s.replies := rfl
@[simp] theorem State.refuse_diag (s : State) : (s.refuse).diag = s.diag := rfl
@[simp] theorem State.refuse_hostWords (s : State) : (s.refuse).hostWords = s.hostWords := rfl
@[simp] theorem State.refuse_calls (s : State) : (s.refuse).calls = s.calls := rfl
@[simp] theorem State.refuse_reads (s : State) : (s.refuse).reads = s.reads := rfl
@[simp] theorem State.refuse_callScript (s : State) : (s.refuse).callScript = s.callScript := rfl
@[simp] theorem State.refuse_readScript (s : State) : (s.refuse).readScript = s.readScript := rfl
@[simp] theorem State.refuse_readValues (s : State) : (s.refuse).readValues = s.readValues := rfl

@[simp] theorem State.regAct_clk (s : State) (a : RegAct) : (s.regAct a).clk = s.clk := by cases a <;> rfl
@[simp] theorem State.regAct_dio (s : State) (a : RegAct) : (s.regAct a).dio = s.dio := by cases a <;> rfl
@[simp] theorem State.regAct_fatal (s : State) (a : RegAct) : (s.regAct a).fatal = s.fatal := by cases a <;> rfl
@[simp] theorem State.regAct_fcode (s : State) (a : RegAct) : (s.regAct a).fcode = s.fcode := by cases a <;> rfl
@[simp] theorem State.regAct_refused (s : State) (a : RegAct) : (s.regAct a).refused = s.refused := by cases a <;> rfl
@[simp] theorem State.regAct_trace (s : State) (a : RegAct) : (s.regAct a).trace = s.trace := by cases a <;> rfl
@[simp] theorem State.regAct_phase (s : State) (a : RegAct) : (s.regAct a).phase = s.phase := by cases a <;> rfl
@[simp] theorem State.regAct_rdv (s : State) (a : RegAct) : (s.regAct a).rdv = s.rdv := by cases a <;> rfl
@[simp] theorem State.regAct_replies (s : State) (a : RegAct) : (s.regAct a).replies = s.replies := by cases a <;> rfl
@[simp] theorem State.regAct_diag (s : State) (a : RegAct) : (s.regAct a).diag = s.diag := by cases a <;> rfl
@[simp] theorem State.regAct_hostWords (s : State) (a : RegAct) : (s.regAct a).hostWords = s.hostWords := by cases a <;> rfl
@[simp] theorem State.regAct_calls (s : State) (a : RegAct) : (s.regAct a).calls = s.calls := by cases a <;> rfl
@[simp] theorem State.regAct_reads (s : State) (a : RegAct) : (s.regAct a).reads = s.reads := by cases a <;> rfl
@[simp] theorem State.regAct_callScript (s : State) (a : RegAct) : (s.regAct a).callScript = s.callScript := by cases a <;> rfl
@[simp] theorem State.regAct_readScript (s : State) (a : RegAct) : (s.regAct a).readScript = s.readScript := by cases a <;> rfl
@[simp] theorem State.regAct_readValues (s : State) (a : RegAct) : (s.regAct a).readValues = s.readValues := by cases a <;> rfl

@[simp] theorem State.setAck_clk (s : State) (v : Int) : (s.setAck v).clk = s.clk := rfl
@[simp] theorem State.setAck_dio (s : State) (v : Int) : (s.setAck v).dio = s.dio := rfl
@[simp] theorem State.setAck_fatal (s : State) (v : Int) : (s.setAck v).fatal = s.fatal := rfl
@[simp] theorem State.setAck_fcode (s : State) (v : Int) : (s.setAck v).fcode = s.fcode := rfl
@[simp] theorem State.setAck_refused (s : State) (v : Int) : (s.setAck v).refused = s.refused := rfl
@[simp] theorem State.setAck_trace (s : State) (v : Int) : (s.setAck v).trace = s.trace := rfl
@[simp] theorem State.setAck_phase (s : State) (v : Int) : (s.setAck v).phase = s.phase := rfl
@[simp] theorem State.setAck_xfer (s : State) (v : Int) : (s.setAck v).xfer = s.xfer.map (fun x => { x with ackv := some v }) := rfl
@[simp] theorem State.setAck_rdv (s : State) (v : Int) : (s.setAck v).rdv = s.rdv := rfl
@[simp] theorem State.setAck_replies (s : State) (v : Int) : (s.setAck v).replies = s.replies := rfl
@[simp] theorem State.setAck_diag (s : State) (v : Int) : (s.setAck v).diag = s.diag := rfl
@[simp] theorem State.setAck_hostWords (s : State) (v : Int) : (s.setAck v).hostWords = s.hostWords := rfl
@[simp] theorem State.setAck_calls (s : State) (v : Int) : (s.setAck v).calls = s.calls := rfl
@[simp] theorem State.setAck_reads (s : State) (v : Int) : (s.setAck v).reads = s.reads := rfl
@[simp] theorem State.setAck_callScript (s : State) (v : Int) : (s.setAck v).callScript = s.callScript := rfl
@[simp] theorem State.setAck_readScript (s : State) (v : Int) : (s.setAck v).readScript = s.readScript := rfl
@[simp] theorem State.setAck_readValues (s : State) (v : Int) : (s.setAck v).readValues = s.readValues := rfl

@[simp] theorem State.setRdv_clk (s : State) (v : Int) : (s.setRdv v).clk = s.clk := rfl
@[simp] theorem State.setRdv_dio (s : State) (v : Int) : (s.setRdv v).dio = s.dio := rfl
@[simp] theorem State.setRdv_fatal (s : State) (v : Int) : (s.setRdv v).fatal = s.fatal := rfl
@[simp] theorem State.setRdv_fcode (s : State) (v : Int) : (s.setRdv v).fcode = s.fcode := rfl
@[simp] theorem State.setRdv_refused (s : State) (v : Int) : (s.setRdv v).refused = s.refused := rfl
@[simp] theorem State.setRdv_trace (s : State) (v : Int) : (s.setRdv v).trace = s.trace := rfl
@[simp] theorem State.setRdv_phase (s : State) (v : Int) : (s.setRdv v).phase = s.phase := rfl
@[simp] theorem State.setRdv_xfer (s : State) (v : Int) : (s.setRdv v).xfer = s.xfer := rfl
@[simp] theorem State.setRdv_rdv (s : State) (v : Int) : (s.setRdv v).rdv = some v := rfl
@[simp] theorem State.setRdv_replies (s : State) (v : Int) : (s.setRdv v).replies = s.replies := rfl
@[simp] theorem State.setRdv_diag (s : State) (v : Int) : (s.setRdv v).diag = s.diag := rfl
@[simp] theorem State.setRdv_hostWords (s : State) (v : Int) : (s.setRdv v).hostWords = s.hostWords := rfl
@[simp] theorem State.setRdv_calls (s : State) (v : Int) : (s.setRdv v).calls = s.calls := rfl
@[simp] theorem State.setRdv_reads (s : State) (v : Int) : (s.setRdv v).reads = s.reads := rfl
@[simp] theorem State.setRdv_callScript (s : State) (v : Int) : (s.setRdv v).callScript = s.callScript := rfl
@[simp] theorem State.setRdv_readScript (s : State) (v : Int) : (s.setRdv v).readScript = s.readScript := rfl
@[simp] theorem State.setRdv_readValues (s : State) (v : Int) : (s.setRdv v).readValues = s.readValues := rfl

@[simp] theorem State.enter_clk (s : State) (i : Instr) (k : Nat) : (s.enter i k).clk = s.clk := rfl
@[simp] theorem State.enter_dio (s : State) (i : Instr) (k : Nat) : (s.enter i k).dio = s.dio := rfl
@[simp] theorem State.enter_fatal (s : State) (i : Instr) (k : Nat) : (s.enter i k).fatal = s.fatal := rfl
@[simp] theorem State.enter_fcode (s : State) (i : Instr) (k : Nat) : (s.enter i k).fcode = s.fcode := rfl
@[simp] theorem State.enter_refused (s : State) (i : Instr) (k : Nat) : (s.enter i k).refused = s.refused := rfl
@[simp] theorem State.enter_trace (s : State) (i : Instr) (k : Nat) : (s.enter i k).trace = s.trace := rfl
@[simp] theorem State.enter_phase (s : State) (i : Instr) (k : Nat) : (s.enter i k).phase = .busy i k := rfl
@[simp] theorem State.enter_xfer (s : State) (i : Instr) (k : Nat) : (s.enter i k).xfer = s.xfer := rfl
@[simp] theorem State.enter_rdv (s : State) (i : Instr) (k : Nat) : (s.enter i k).rdv = s.rdv := rfl
@[simp] theorem State.enter_replies (s : State) (i : Instr) (k : Nat) : (s.enter i k).replies = s.replies := rfl
@[simp] theorem State.enter_diag (s : State) (i : Instr) (k : Nat) : (s.enter i k).diag = s.diag := rfl
@[simp] theorem State.enter_hostWords (s : State) (i : Instr) (k : Nat) : (s.enter i k).hostWords = s.hostWords := rfl
@[simp] theorem State.enter_calls (s : State) (i : Instr) (k : Nat) : (s.enter i k).calls = s.calls := rfl
@[simp] theorem State.enter_reads (s : State) (i : Instr) (k : Nat) : (s.enter i k).reads = s.reads := rfl
@[simp] theorem State.enter_callScript (s : State) (i : Instr) (k : Nat) : (s.enter i k).callScript = s.callScript := rfl
@[simp] theorem State.enter_readScript (s : State) (i : Instr) (k : Nat) : (s.enter i k).readScript = s.readScript := rfl
@[simp] theorem State.enter_readValues (s : State) (i : Instr) (k : Nat) : (s.enter i k).readValues = s.readValues := rfl

@[simp] theorem State.complete_clk (s : State) (i : Instr) : (s.complete i).clk = s.clk := rfl
@[simp] theorem State.complete_dio (s : State) (i : Instr) : (s.complete i).dio = s.dio := rfl
@[simp] theorem State.complete_fatal (s : State) (i : Instr) : (s.complete i).fatal = s.fatal := rfl
@[simp] theorem State.complete_fcode (s : State) (i : Instr) : (s.complete i).fcode = s.fcode := rfl
@[simp] theorem State.complete_refused (s : State) (i : Instr) : (s.complete i).refused = s.refused := rfl
@[simp] theorem State.complete_trace (s : State) (i : Instr) : (s.complete i).trace = s.trace := rfl
@[simp] theorem State.complete_phase (s : State) (i : Instr) : (s.complete i).phase = .idle := rfl
@[simp] theorem State.complete_xfer (s : State) (i : Instr) : (s.complete i).xfer = none := rfl
@[simp] theorem State.complete_rdv (s : State) (i : Instr) : (s.complete i).rdv = none := rfl
@[simp] theorem State.complete_replies (s : State) (i : Instr) : (s.complete i).replies = s.replies ++ (s.replyFor i).toList := rfl
@[simp] theorem State.complete_diag (s : State) (i : Instr) : (s.complete i).diag = s.diag := rfl
@[simp] theorem State.complete_hostWords (s : State) (i : Instr) : (s.complete i).hostWords = s.hostWords := rfl
@[simp] theorem State.complete_calls (s : State) (i : Instr) : (s.complete i).calls = s.calls := rfl
@[simp] theorem State.complete_reads (s : State) (i : Instr) : (s.complete i).reads = s.reads := rfl
@[simp] theorem State.complete_callScript (s : State) (i : Instr) : (s.complete i).callScript = s.callScript := rfl
@[simp] theorem State.complete_readScript (s : State) (i : Instr) : (s.complete i).readScript = s.readScript := rfl
@[simp] theorem State.complete_readValues (s : State) (i : Instr) : (s.complete i).readValues = s.readValues := rfl

@[simp] theorem State.handWord_clk (s : State) (w : Word) : (s.handWord w).clk = s.clk := rfl
@[simp] theorem State.handWord_dio (s : State) (w : Word) : (s.handWord w).dio = s.dio := rfl
@[simp] theorem State.handWord_fatal (s : State) (w : Word) : (s.handWord w).fatal = s.fatal := rfl
@[simp] theorem State.handWord_fcode (s : State) (w : Word) : (s.handWord w).fcode = s.fcode := rfl
@[simp] theorem State.handWord_refused (s : State) (w : Word) : (s.handWord w).refused = s.refused := rfl
@[simp] theorem State.handWord_trace (s : State) (w : Word) : (s.handWord w).trace = s.trace := rfl
@[simp] theorem State.handWord_phase (s : State) (w : Word) : (s.handWord w).phase = s.phase := rfl
@[simp] theorem State.handWord_xfer (s : State) (w : Word) : (s.handWord w).xfer = s.xfer := rfl
@[simp] theorem State.handWord_rdv (s : State) (w : Word) : (s.handWord w).rdv = s.rdv := rfl
@[simp] theorem State.handWord_replies (s : State) (w : Word) : (s.handWord w).replies = s.replies := rfl
@[simp] theorem State.handWord_diag (s : State) (w : Word) : (s.handWord w).diag = s.diag := rfl
@[simp] theorem State.handWord_hostWords (s : State) (w : Word) : (s.handWord w).hostWords = w :: s.hostWords := rfl
@[simp] theorem State.handWord_calls (s : State) (w : Word) : (s.handWord w).calls = s.calls := rfl
@[simp] theorem State.handWord_reads (s : State) (w : Word) : (s.handWord w).reads = s.reads := rfl
@[simp] theorem State.handWord_callScript (s : State) (w : Word) : (s.handWord w).callScript = s.callScript := rfl
@[simp] theorem State.handWord_readScript (s : State) (w : Word) : (s.handWord w).readScript = s.readScript := rfl
@[simp] theorem State.handWord_readValues (s : State) (w : Word) : (s.handWord w).readValues = s.readValues := rfl

@[simp] theorem State.drawRead_clk (s : State) (p : Pin) : (s.drawRead p).clk = s.clk := by
  unfold State.drawRead; split <;> rfl
@[simp] theorem State.drawRead_dio (s : State) (p : Pin) : (s.drawRead p).dio = s.dio := by
  unfold State.drawRead; split <;> rfl
@[simp] theorem State.drawRead_fatal (s : State) (p : Pin) : (s.drawRead p).fatal = s.fatal := by
  unfold State.drawRead; split <;> rfl
@[simp] theorem State.drawRead_fcode (s : State) (p : Pin) : (s.drawRead p).fcode = s.fcode := by
  unfold State.drawRead; split <;> rfl
@[simp] theorem State.drawRead_refused (s : State) (p : Pin) : (s.drawRead p).refused = s.refused := by
  unfold State.drawRead; split <;> rfl
@[simp] theorem State.drawRead_trace (s : State) (p : Pin) : (s.drawRead p).trace = s.trace := by
  unfold State.drawRead; split <;> rfl
@[simp] theorem State.drawRead_phase (s : State) (p : Pin) : (s.drawRead p).phase = s.phase := by
  unfold State.drawRead; split <;> rfl
@[simp] theorem State.drawRead_xfer (s : State) (p : Pin) : (s.drawRead p).xfer = s.xfer := by
  unfold State.drawRead; split <;> rfl
@[simp] theorem State.drawRead_rdv (s : State) (p : Pin) : (s.drawRead p).rdv = s.rdv := by
  unfold State.drawRead; split <;> rfl
@[simp] theorem State.drawRead_replies (s : State) (p : Pin) : (s.drawRead p).replies = s.replies := by
  unfold State.drawRead; split <;> rfl
@[simp] theorem State.drawRead_diag (s : State) (p : Pin) : (s.drawRead p).diag = s.diag := by
  unfold State.drawRead; split <;> rfl
@[simp] theorem State.drawRead_hostWords (s : State) (p : Pin) : (s.drawRead p).hostWords = s.hostWords := by
  unfold State.drawRead; split <;> rfl
@[simp] theorem State.drawRead_calls (s : State) (p : Pin) : (s.drawRead p).calls = s.calls := by
  unfold State.drawRead; split <;> rfl
@[simp] theorem State.drawRead_callScript (s : State) (p : Pin) : (s.drawRead p).callScript = s.callScript := by
  unfold State.drawRead; split <;> rfl
@[simp] theorem State.drawRead_readScript (s : State) (p : Pin) : (s.drawRead p).readScript = s.readScript := by
  unfold State.drawRead; split <;> rfl
@[simp] theorem State.drawRead_readValues (s : State) (p : Pin) : (s.drawRead p).readValues = s.readValues := by
  unfold State.drawRead; split <;> rfl

/-! ### Pins -/

@[simp] theorem State.pin_clk (s : State) : s.pin .clk = s.clk := rfl
@[simp] theorem State.pin_dio (s : State) : s.pin .dio = s.dio := rfl
@[simp] theorem State.setPin_clk_clk (s : State) (q : PinCfg) : (s.setPin .clk q).clk = q := rfl
@[simp] theorem State.setPin_clk_dio (s : State) (q : PinCfg) : (s.setPin .clk q).dio = s.dio := rfl
@[simp] theorem State.setPin_dio_dio (s : State) (q : PinCfg) : (s.setPin .dio q).dio = q := rfl
@[simp] theorem State.setPin_dio_clk (s : State) (q : PinCfg) : (s.setPin .dio q).clk = s.clk := rfl
@[simp] theorem State.setPin_pin_same (s : State) (p : Pin) (q : PinCfg) : (s.setPin p q).pin p = q := by
  cases p <;> rfl

theorem State.setPin_pin_other (s : State) {p r : Pin} (q : PinCfg) (h : r ≠ p) : (s.setPin p q).pin r = s.pin r := by
  cases p <;> cases r <;> simp_all

@[simp] theorem State.emit_pin (s : State) (e : Event) (p : Pin) : (s.emit e).pin p = s.pin p := by cases p <;> rfl
@[simp] theorem State.countCall_pin (s : State) (p : Pin) : s.countCall.pin p = s.pin p := by cases p <;> rfl
@[simp] theorem State.countRead_pin (s : State) (p : Pin) : s.countRead.pin p = s.pin p := by cases p <;> rfl
@[simp] theorem State.enter_pin (s : State) (i : Instr) (k : Nat) (p : Pin) : (s.enter i k).pin p = s.pin p := by
  cases p <;> rfl
@[simp] theorem State.regAct_pin (s : State) (a : RegAct) (p : Pin) : (s.regAct a).pin p = s.pin p := by
  cases a <;> cases p <;> rfl
@[simp] theorem State.complete_pin (s : State) (i : Instr) (p : Pin) : (s.complete i).pin p = s.pin p := by
  cases p <;> rfl

/-- The pin a failed call did not name is unchanged. -/
theorem State.raiseFatal_pin_other (s : State) {p r : Pin} (c : CallKind) (h : r ≠ p) :
    (s.raiseFatal p c).pin r = s.pin r := by
  cases p <;> cases r <;> first | rfl | exact absurd rfl h

@[simp] theorem State.regAct_keep (s : State) : s.regAct .keep = s := rfl
@[simp] theorem State.regAct_load_xfer (s : State) (b : Byte) : (s.regAct (.load b)).xfer = some ⟨b, 0, none⟩ := rfl
@[simp] theorem State.regAct_drop_xfer (s : State) : (s.regAct .drop).xfer = none := rfl
@[simp] theorem State.regAct_count_xfer (s : State) (n : Fin 9) :
    (s.regAct (.count n)).xfer = s.xfer.map (fun x => { x with bc := n }) := rfl

end Sys2Proof.Machine
end

