-- ==== Sys2Proof/Laws/Ops.lean ====
section
/-! SUPPORT. What each shared operation can do, said once: the platform call, the primitives, the micro-step, the run of a
micro-program, the ROM. -/

namespace Sys2Proof.Machine

/-! ### The ROM and the environment's values -/

/-- The ROM is in canonical form; no operation writes a memory, so there is nothing else to keep. -/
theorem rom_wf : rom.wf := by decide

/-- The ROM lists exactly the addresses 0 to 9 (R41). -/
theorem rom_read_none (n : Nat) (h : 9 < n) : rom.read n = none := by
  simp only [rom, Memory.read]
  repeat (rw [if_neg (by omega)])

/-- SEGMAP has a mask exactly for the digits 0 to 9 (R64, R135). -/
theorem segMask_isSome (d : BitVec 4) (pt : Bool) : (segMask d pt).isSome = decide (d.toNat ≤ 9) := by
  revert d pt; decide

/-- Every answer of the environment is a member of READ_VALUES (R21). -/
theorem readValueAt_mem (r : ReadValues) (n : Nat) : inReadValues r (readValueAt r n) := by
  cases r with
  | these v vs =>
    simp only [inReadValues, readValueAt]
    cases h : (v :: vs)[n]? with
    | none => simp
    | some w => simpa using List.mem_of_getElem? h
  | unknown => exact ⟨n, rfl⟩

/-- Every member of READ_VALUES is an answer the environment can give (R21, D27). -/
theorem readValueAt_surj (r : ReadValues) (v : Int) (h : inReadValues r v) : ∃ n, readValueAt r n = v := by
  cases r with
  | these w ws =>
    obtain ⟨n, hn⟩ := List.getElem?_of_mem h
    exact ⟨n, by simp [readValueAt, hn]⟩
  | unknown => exact h

theorem State.envValueAt_mem (s : State) (p : Pin) (n : Nat) : inReadValues s.readValues (s.envValueAt p n) :=
  readValueAt_mem _ _

/-- A script that answers OK to the next n calls. -/
theorem State.answersOk_of_script (s : State) (n : Nat)
    (h : ∀ j, j < n → s.callScript[s.calls + j]? = some .ok) : s.answersOk n := by
  intro j hj p c
  simp [State.outcomeAt, h j hj]

theorem State.answersOk_mono {s : State} {m n : Nat} (h : s.answersOk n) (hm : m ≤ n) : s.answersOk m :=
  fun j hj => h j (by omega)

/-! ### The platform call -/

/-- A call does not fail on an exported pin that the platform answers OK. -/
theorem State.callFails_false (s : State) (p : Pin) (c : CallKind) (he : callNeedsExport c = true → (s.pin p).exp = true)
    (ho : s.outcomeAt p c s.calls = .ok) : s.callFails p c = false := by
  unfold State.callFails
  cases hc : callNeedsExport c <;> simp_all

/-- A platform call either completes, with the pin's registers set and one event, or raises the fatal fault. -/
theorem State.platformCall_cases (s : State) (p : Pin) (c : CallKind) (q : PinCfg) (e : Event) :
    (s.callFails p c = false ∧ s.platformCall p c q e = .done () (((s.setPin p q).countCall).emit e)) ∨
    (s.callFails p c = true ∧ s.platformCall p c q e = .fatal (s.raiseFatal p c)) := by
  unfold State.platformCall
  cases s.callFails p c <;> simp

theorem State.platformCall_done (s : State) (p : Pin) (c : CallKind) (q : PinCfg) (e : Event)
    (h : s.callFails p c = false) :
    s.platformCall p c q e = .done () (((s.setPin p q).countCall).emit e) := by simp [State.platformCall, h]

theorem State.platformCall_fatal (s : State) (p : Pin) (c : CallKind) (q : PinCfg) (e : Event)
    (h : s.callFails p c = true) : s.platformCall p c q e = .fatal (s.raiseFatal p c) := by
  simp [State.platformCall, h]

/-- A read completes with its value and its event, drawing from the environment in input mode only, or raises the fatal
fault. -/
theorem State.pinRead_cases (s : State) (p : Pin) :
    (s.callFails p .read = false ∧
      s.pinRead p = .done (s.readValue p)
        ((((s.setPin p (s.pin p)).countCall).emit (.read p (s.readValue p))).drawRead p)) ∨
    (s.callFails p .read = true ∧ s.pinRead p = .fatal (s.raiseFatal p .read)) := by
  unfold State.pinRead
  rcases s.platformCall_cases p .read (s.pin p) (.read p (s.readValue p)) with ⟨h, e⟩ | ⟨h, e⟩ <;> simp [h, e]

/-! ### Running micro-programs -/

@[simp] theorem State.runSeq_nil (i : Instr) (k : Nat) (s : State) : State.runSeq i k [] s = .done () s := rfl

theorem State.runSeq_cons_done {i : Instr} {k : Nat} {op : MicroOp} {rest : List MicroOp} {s t : State}
    (h : (s.enter i k).doOp op = .done () t) : State.runSeq i k (op :: rest) s = State.runSeq i (k + 1) rest t := by
  simp [State.runSeq, h]

theorem State.runSeq_cons_fatal {i : Instr} {k : Nat} {op : MicroOp} {rest : List MicroOp} {s t : State}
    (h : (s.enter i k).doOp op = .fatal t) : State.runSeq i k (op :: rest) s = .fatal t := by
  simp [State.runSeq, h]

/-- A micro-program in two parts runs its second part where the first completed. -/
theorem State.runSeq_append (i : Instr) (a b : List MicroOp) (k : Nat) (s : State) :
    State.runSeq i k (a ++ b) s =
      match State.runSeq i k a s with
      | .done _ t => State.runSeq i (k + a.length) b t
      | .fatal t => .fatal t := by
  induction a generalizing k s with
  | nil => simp
  | cons op rest ih =>
    simp only [List.cons_append, State.runSeq]
    cases (s.enter i k).doOp op with
    | done v t =>
      simp only [ih, List.length_cons]
      rw [show k + 1 + rest.length = k + (rest.length + 1) by omega]
    | fatal t => rfl

/-- An IDLE engine always answers a next state. -/
theorem State.runCommand_idle {s : State} (h : s.phase = .idle) (i : Instr) (ops : List MicroOp) :
    s.runCommand i ops = .next (s.runProgram i ops) := by simp [State.runCommand, h]

/-- A halted engine answers no state. -/
theorem State.runCommand_halted {s : State} (h : s.phase = .halted) (i : Instr) (ops : List MicroOp) :
    s.runCommand i ops = .fault .halted := by simp [State.runCommand, h]

/-- A command answers a next state only from IDLE, the state its program ends in. -/
theorem State.runCommand_next {s t : State} {i : Instr} {ops : List MicroOp} (h : s.runCommand i ops = .next t) :
    s.phase = .idle ∧ t = s.runProgram i ops := by
  unfold State.runCommand at h
  split at h
  · rename_i hp; exact ⟨hp, by simpa using h.symm⟩
  · cases h
  · cases h

/-! ### Arriving at a micro-step -/

@[simp] theorem State.arrive_phase (s : State) (i : Instr) (k : Nat) : (s.arrive i k).phase = .busy i k := by
  unfold State.arrive; split <;> simp
@[simp] theorem State.arrive_clk (s : State) (i : Instr) (k : Nat) : (s.arrive i k).clk = s.clk := by
  unfold State.arrive; split <;> simp
@[simp] theorem State.arrive_dio (s : State) (i : Instr) (k : Nat) : (s.arrive i k).dio = s.dio := by
  unfold State.arrive; split <;> simp
@[simp] theorem State.arrive_fatal (s : State) (i : Instr) (k : Nat) : (s.arrive i k).fatal = s.fatal := by
  unfold State.arrive; split <;> simp
@[simp] theorem State.arrive_fcode (s : State) (i : Instr) (k : Nat) : (s.arrive i k).fcode = s.fcode := by
  unfold State.arrive; split <;> simp
@[simp] theorem State.arrive_refused (s : State) (i : Instr) (k : Nat) : (s.arrive i k).refused = s.refused := by
  unfold State.arrive; split <;> simp
@[simp] theorem State.arrive_trace (s : State) (i : Instr) (k : Nat) : (s.arrive i k).trace = s.trace := by
  unfold State.arrive; split <;> simp
@[simp] theorem State.arrive_rdv (s : State) (i : Instr) (k : Nat) : (s.arrive i k).rdv = s.rdv := by
  unfold State.arrive; split <;> simp
@[simp] theorem State.arrive_replies (s : State) (i : Instr) (k : Nat) : (s.arrive i k).replies = s.replies := by
  unfold State.arrive; split <;> simp
@[simp] theorem State.arrive_diag (s : State) (i : Instr) (k : Nat) : (s.arrive i k).diag = s.diag := by
  unfold State.arrive; split <;> simp
@[simp] theorem State.arrive_hostWords (s : State) (i : Instr) (k : Nat) : (s.arrive i k).hostWords = s.hostWords := by
  unfold State.arrive; split <;> simp
@[simp] theorem State.arrive_calls (s : State) (i : Instr) (k : Nat) : (s.arrive i k).calls = s.calls := by
  unfold State.arrive; split <;> simp
@[simp] theorem State.arrive_reads (s : State) (i : Instr) (k : Nat) : (s.arrive i k).reads = s.reads := by
  unfold State.arrive; split <;> simp
@[simp] theorem State.arrive_callScript (s : State) (i : Instr) (k : Nat) : (s.arrive i k).callScript = s.callScript := by
  unfold State.arrive; split <;> simp
@[simp] theorem State.arrive_readScript (s : State) (i : Instr) (k : Nat) : (s.arrive i k).readScript = s.readScript := by
  unfold State.arrive; split <;> simp
@[simp] theorem State.arrive_readValues (s : State) (i : Instr) (k : Nat) : (s.arrive i k).readValues = s.readValues := by
  unfold State.arrive; split <;> simp

/-- Arriving at a micro-step sets the transient registers as that micro-step does (R26, R94). -/
theorem State.arrive_eq {s : State} {i : Instr} {k : Nat} {op : MicroOp} (h : (program i)[k]? = some op) :
    s.arrive i k = (s.enter i k).regAct op.act := by simp [State.arrive, h]

/-- Arriving at a micro-step and running it is what the run of a whole command does there. -/
theorem State.arrive_doPrim {s : State} {i : Instr} {k : Nat} {op : MicroOp} (h : (program i)[k]? = some op) :
    (s.arrive i k).doPrim op.prim = (s.enter i k).doOp op := by simp [State.arrive_eq h, State.doOp]

/-! ### What no primitive changes -/

/-- The fields that no micro-step writes. -/
structure State.SameHost (s t : State) : Prop where
  refused : t.refused = s.refused
  replies : t.replies = s.replies
  hostWords : t.hostWords = s.hostWords
  callScript : t.callScript = s.callScript
  readScript : t.readScript = s.readScript
  readValues : t.readValues = s.readValues

theorem State.SameHost.trans {s t u : State} (h : s.SameHost t) (h' : t.SameHost u) : s.SameHost u :=
  ⟨h'.1.trans h.1, h'.2.trans h.2, h'.3.trans h.3, h'.4.trans h.4, h'.5.trans h.5, h'.6.trans h.6⟩

/-- The state a primitive ends in. -/
def PrimResult.state {α : Type} : PrimResult α → State
  | .done _ s => s
  | .fatal s => s

theorem State.platformCall_sameHost (s : State) (p : Pin) (c : CallKind) (q : PinCfg) (e : Event) :
    s.SameHost (s.platformCall p c q e).state := by
  rcases s.platformCall_cases p c q e with ⟨_, h⟩ | ⟨_, h⟩ <;> rw [h] <;> constructor <;> simp [PrimResult.state]

theorem State.pinRead_sameHost (s : State) (p : Pin) : s.SameHost (s.pinRead p).state := by
  rcases s.pinRead_cases p with ⟨_, h⟩ | ⟨_, h⟩ <;> rw [h] <;> constructor <;> simp [PrimResult.state]

theorem State.doPrim_sameHost (s : State) (pr : Prim) : s.SameHost (s.doPrim pr).state := by
  cases pr with
  | exportPin p => exact s.platformCall_sameHost ..
  | setDir p m => exact s.platformCall_sameHost ..
  | write p l => exact s.platformCall_sameHost ..
  | writeBit => exact s.platformCall_sameHost ..
  | read p =>
    have h := s.pinRead_sameHost p
    simp only [State.doPrim]
    cases hr : s.pinRead p <;> rw [hr] at h <;> exact ⟨h.1, h.2, h.3, h.4, h.5, h.6⟩
  | sample =>
    have h := s.pinRead_sameHost .dio
    simp only [State.doPrim]
    cases hr : s.pinRead .dio <;> rw [hr] at h <;> exact ⟨h.1, h.2, h.3, h.4, h.5, h.6⟩
  | hold =>
    simp only [State.doPrim]
    split
    · exact s.platformCall_sameHost ..
    · exact ⟨rfl, rfl, rfl, rfl, rfl, rfl⟩
  | wait t => exact ⟨rfl, rfl, rfl, rfl, rfl, rfl⟩

theorem State.doOp_sameHost (s : State) (op : MicroOp) : s.SameHost (s.doOp op).state :=
  State.SameHost.trans ⟨by simp, by simp, by simp, by simp, by simp, by simp⟩ ((s.regAct op.act).doPrim_sameHost op.prim)

/-- No run of micro-steps writes the host's side of the state. -/
theorem State.runSeq_sameHost (i : Instr) (k : Nat) (ops : List MicroOp) (s : State) :
    s.SameHost (State.runSeq i k ops s).state := by
  induction ops generalizing k s with
  | nil => exact ⟨rfl, rfl, rfl, rfl, rfl, rfl⟩
  | cons op rest ih =>
    have h := (s.enter i k).doOp_sameHost op
    have h0 : s.SameHost ((s.enter i k).doOp op).state := ⟨h.1, h.2, h.3, h.4, h.5, h.6⟩
    cases hd : (s.enter i k).doOp op with
    | done v t => rw [State.runSeq_cons_done hd]; rw [hd] at h0; exact h0.trans (ih (k + 1) t)
    | fatal t => rw [State.runSeq_cons_fatal hd]; rw [hd] at h0; exact h0

end Sys2Proof.Machine
end

