-- ==== Sys2Proof/Laws/PerInstr.lean ====
section
/-! SUPPORT. A law of the encoder, for each command: the opcode field of its word is the table's opcode
(spec/30_encoding.md R57, R66). -/

namespace Sys2Proof.Laws.OpcodeField

/-- The opcode the table gives a command (R66). -/
def opcodeNumber : Instr → BitVec 4
  | .pexp _ => 0x1
  | .pdir _ _ => 0x2
  | .pwr _ _ => 0x3
  | .prd _ => 0x4
  | .start => 0x5
  | .stop => 0x6
  | .wbyte _ => 0x7
  | .disp _ _ => 0x8
  | .segmap _ _ => 0x9

/-- The word of the command has the table's opcode in bits 15 to 12. -/
def Statement (i : Instr) : Prop := opcodeOf (encode i) = opcodeNumber i

theorem pexp (p : Pin) : Statement (.pexp p) := by cases p <;> rfl
theorem pdir (p : Pin) (m : Dir) : Statement (.pdir p m) := by cases p <;> cases m <;> rfl
theorem pwr (p : Pin) (l : Level) : Statement (.pwr p l) := by cases p <;> cases l <;> rfl
theorem prd (p : Pin) : Statement (.prd p) := by cases p <;> rfl
theorem start : Statement .start := rfl
theorem stop : Statement .stop := rfl
theorem wbyte (b : Byte) : Statement (.wbyte b) := by revert b; unfold Statement; decide +kernel
theorem disp (c : BitVec 2) (m : Byte) : Statement (.disp c m) := by revert c m; unfold Statement; decide +kernel
theorem segmap (d : BitVec 4) (pt : Bool) : Statement (.segmap d pt) := by revert d pt; unfold Statement; decide +kernel

end Sys2Proof.Laws.OpcodeField
end

