-- ==== Sys2Proof/Laws/Programs.lean ====
section
/-! SUPPORT. What the shared micro-programs do when the platform answers OK: START, STOP, one data bit, the turnaround, the
whole byte write; that a primitive that raises the fatal fault halts the engine; what one that completes does to TRACE, the
pins and the transient registers; the edges of the wire. -/

namespace Sys2Proof.Machine

/-- The answers left after m calls. -/
theorem State.answersOk_after {s t : State} {n : Nat} (h : s.answersOk n) (m k : Nat)
    (hc : t.callScript = s.callScript) (hn : t.calls = s.calls + m) (hk : m + k ≤ n) : t.answersOk k := by
  intro j hj p c
  simpa [State.outcomeAt, hc, hn, Nat.add_assoc] using h (m + j) (by omega) p c

/-- `Start()` followed by anything (R113, R115). -/
theorem State.runSeq_start (i : Instr) (k : Nat) (rest : List MicroOp) (s : State) (hc : s.clk.exp = true)
    (hd : s.dio.exp = true) (h : s.answersOk 4) :
    State.runSeq i k (startOps ++ rest) s = State.runSeq i (k + 4) rest
      { s with
        clk := { s.clk with lat := false }, dio := { s.dio with lat := false }, trace := s.trace ++ startEvents,
        calls := s.calls + 4, phase := .busy i (k + 3) } := by
  have h0 := h 0 (by omega)
  have h1 := h 1 (by omega)
  have h2 := h 2 (by omega)
  have h3 := h 3 (by omega)
  simp only [State.outcomeAt, Nat.add_zero] at h0 h1 h2 h3
  simp_all [startOps, startEvents, State.runSeq, State.doOp, State.doPrim, State.pinWrite, State.platformCall,
    State.callFails, State.outcomeAt, callNeedsExport, State.enter, State.emit, State.countCall, State.setPin, State.pin]

/-- `Stop()` followed by anything (R117, R119). -/
theorem State.runSeq_stop (i : Instr) (k : Nat) (rest : List MicroOp) (s : State) (hc : s.clk.exp = true)
    (hd : s.dio.exp = true) (h : s.answersOk 4) :
    State.runSeq i k (stopOps ++ rest) s = State.runSeq i (k + 4) rest
      { s with
        clk := { s.clk with lat := true }, dio := { s.dio with lat := true }, trace := s.trace ++ stopEvents,
        calls := s.calls + 4, xfer := none, phase := .busy i (k + 3) } := by
  have h0 := h 0 (by omega)
  have h1 := h 1 (by omega)
  have h2 := h 2 (by omega)
  have h3 := h 3 (by omega)
  simp only [State.outcomeAt, Nat.add_zero] at h0 h1 h2 h3
  simp_all [stopOps, stopEvents, State.runSeq, State.doOp, State.doPrim, State.pinWrite, State.platformCall,
    State.callFails, State.outcomeAt, callNeedsExport, State.enter, State.emit, State.countCall, State.setPin, State.pin,
    State.regAct]

/-- One data bit followed by anything: the level sent is SR[BC] (R95). -/
theorem State.runSeq_bit (i : Instr) (k : Nat) (act : RegAct) (rest : List MicroOp) (s : State) (x : Xfer)
    (hx : (s.regAct act).xfer = some x) (hc : s.clk.exp = true) (hd : s.dio.exp = true) (h : s.answersOk 3) :
    State.runSeq i k (bitOps act ++ rest) s = State.runSeq i (k + 5) rest
      { s with
        clk := { s.clk with lat := true }, dio := { s.dio with lat := bitOf x.sr x.bc.val },
        trace := s.trace ++ bitEvents (bitOf x.sr x.bc.val), calls := s.calls + 3, xfer := some x,
        phase := .busy i (k + 4) } := by
  have h0 := h 0 (by omega)
  have h1 := h 1 (by omega)
  have h2 := h 2 (by omega)
  simp only [State.outcomeAt, Nat.add_zero] at h0 h1 h2
  cases act <;> simp at hx <;> (try obtain ⟨x', hx, rfl⟩ := hx) <;>
  simp_all [bitOps, State.runSeq, State.doOp, State.doPrim, State.pinWrite, State.platformCall, State.callFails,
    State.outcomeAt, callNeedsExport, State.wait, State.enter, State.emit, State.countCall, State.setPin, State.pin,
    State.shiftBit, State.regAct, bitEvents]

/-- The acknowledgment turnaround followed by anything (R98 to R105). -/
theorem State.runSeq_turnaround (i : Instr) (k : Nat) (rest : List MicroOp) (s : State) (x : Xfer)
    (hx : s.xfer = some x) (hc : s.clk.exp = true) (hd : s.dio.exp = true) (v : Int)
    (h : s.answersOk (if v = 0 then 7 else 6)) (hv : s.envValueAt .dio s.reads = v) :
    State.runSeq i k (turnaroundOps ++ rest) s = State.runSeq i (k + 10) rest
      { s with
        clk := { s.clk with lat := true }, dio := { s.dio with dir := .out, lat := decide (v ≠ 0) },
        trace := s.trace ++
          ([.write .clk false, .write .dio true, .write .clk true, .dir .dio .inp, .wait .tAck, .read .dio v] ++
            (if v = 0 then [.write .dio false] else []) ++ [.wait .tAck, .dir .dio .out, .wait .tAck]),
        calls := s.calls + (if v = 0 then 7 else 6), reads := s.reads + 1, xfer := some ⟨x.sr, 8, some v⟩,
        phase := .busy i (k + 9) } := by
  simp only [State.envValueAt] at hv
  have ok : ∀ j, j < 6 → ∀ p c, (s.callScript[s.calls + j]?).getD (Config.platform (Config.platformId p) c (s.calls + j)) =
      .ok := fun j hj p c => h j (by split <;> omega) p c
  have h0 := ok 0 (by omega)
  have h1 := ok 1 (by omega)
  have h2 := ok 2 (by omega)
  have h3 := ok 3 (by omega)
  have h4 := ok 4 (by omega)
  have h5 := ok 5 (by omega)
  simp only [Nat.add_zero] at h0
  clear ok
  by_cases hv0 : v = 0
  · rw [if_pos hv0] at h
    have h6 := h 6 (by omega)
    simp only [State.outcomeAt] at h6
    simp_all [turnaroundOps, State.runSeq, State.doOp, State.doPrim, State.pinWrite, State.pinDir, State.pinRead,
      State.readValue, State.drawRead, State.countRead, State.envValueAt, State.setAck, State.acked, State.ackv, isAck,
      State.platformCall, State.callFails, State.outcomeAt, callNeedsExport, State.wait, State.enter, State.emit,
      State.countCall, State.setPin, State.pin, State.regAct]
  · simp_all [turnaroundOps, State.runSeq, State.doOp, State.doPrim, State.pinWrite, State.pinDir, State.pinRead,
      State.readValue, State.drawRead, State.countRead, State.envValueAt, State.setAck, State.acked, State.ackv, isAck,
      State.platformCall, State.callFails, State.outcomeAt, callNeedsExport, State.wait, State.enter, State.emit,
      State.countCall, State.setPin, State.pin, State.regAct]

/-- `ByteWrite(b)` followed by anything (R94, R107, R108). -/
theorem State.runSeq_byteWrite (i : Instr) (k : Nat) (rest : List MicroOp) (s : State) (b : Byte)
    (hc : s.clk.exp = true) (hd : s.dio.exp = true) (v : Int) (h : s.answersOk (if v = 0 then 31 else 30))
    (hv : s.envValueAt .dio s.reads = v) :
    State.runSeq i k (byteWriteOps b ++ rest) s = State.runSeq i (k + 50) rest
      { s with
        clk := { s.clk with lat := true }, dio := { s.dio with dir := .out, lat := decide (v ≠ 0) },
        trace := s.trace ++ byteWriteEvents b v, calls := s.calls + (if v = 0 then 31 else 30), reads := s.reads + 1,
        xfer := some ⟨b, 8, some v⟩, phase := .busy i (k + 49) } := by
  have left : ∀ (t : State) m n, t.callScript = s.callScript → t.calls = s.calls + m →
      m + n ≤ (if v = 0 then 31 else 30) → t.answersOk n :=
    fun t m n h1 h2 h3 => State.answersOk_after h m n h1 h2 h3
  simp only [byteWriteOps, dataOps, List.append_assoc]
  rw [State.runSeq_bit i k (.load b) _ s ⟨b, 0, none⟩ rfl hc hd (left _ 0 3 rfl rfl (by split <;> omega))]
  rw [State.runSeq_bit i _ (.count 1) _ _ ⟨b, 1, none⟩ ?_ ?_ ?_ ?_]
  rw [State.runSeq_bit i _ (.count 2) _ _ ⟨b, 2, none⟩ ?_ ?_ ?_ ?_]
  rw [State.runSeq_bit i _ (.count 3) _ _ ⟨b, 3, none⟩ ?_ ?_ ?_ ?_]
  rw [State.runSeq_bit i _ (.count 4) _ _ ⟨b, 4, none⟩ ?_ ?_ ?_ ?_]
  rw [State.runSeq_bit i _ (.count 5) _ _ ⟨b, 5, none⟩ ?_ ?_ ?_ ?_]
  rw [State.runSeq_bit i _ (.count 6) _ _ ⟨b, 6, none⟩ ?_ ?_ ?_ ?_]
  rw [State.runSeq_bit i _ (.count 7) _ _ ⟨b, 7, none⟩ ?_ ?_ ?_ ?_]
  rw [State.runSeq_turnaround i _ _ _ ⟨b, 7, none⟩ ?_ ?_ ?_ v ?_ ?_]
  · congr 1
    simp only [byteWriteEvents, bitOf, List.append_assoc, Fin.isValue, State.mk.injEq, true_and, and_true]
    refine ⟨rfl, ?_⟩
    split <;> rfl
  · rfl
  · exact hc
  · exact hd
  · exact left _ 24 _ rfl rfl (by split <;> omega)
  · exact hv
  · rfl
  · exact hc
  · exact hd
  · exact left _ 21 3 rfl rfl (by split <;> omega)
  · rfl
  · exact hc
  · exact hd
  · exact left _ 18 3 rfl rfl (by split <;> omega)
  · rfl
  · exact hc
  · exact hd
  · exact left _ 15 3 rfl rfl (by split <;> omega)
  · rfl
  · exact hc
  · exact hd
  · exact left _ 12 3 rfl rfl (by split <;> omega)
  · rfl
  · exact hc
  · exact hd
  · exact left _ 9 3 rfl rfl (by split <;> omega)
  · rfl
  · exact hc
  · exact hd
  · exact left _ 6 3 rfl rfl (by split <;> omega)
  · rfl
  · exact hc
  · exact hd
  · exact left _ 3 3 rfl rfl (by split <;> omega)

/-- A micro-step that does not complete halts the engine, at the call the diagnostic names. -/
theorem State.platformCall_fatal_eq {s t : State} {p : Pin} {c : CallKind} {q : PinCfg} {e : Event}
    (h : s.platformCall p c q e = .fatal t) : t = s.raiseFatal p c := by
  rcases s.platformCall_cases p c q e with ⟨_, h2⟩ | ⟨_, h2⟩ <;> rw [h2] at h
  · cases h
  · injection h with h; exact h.symm

theorem State.pinRead_fatal_eq {s t : State} {p : Pin} (h : s.pinRead p = .fatal t) : t = s.raiseFatal p .read := by
  rcases s.pinRead_cases p with ⟨_, h2⟩ | ⟨_, h2⟩ <;> rw [h2] at h
  · cases h
  · injection h with h; exact h.symm

/-- The one thing a primitive that fails can do: raise the fatal fault of some call. -/
theorem State.doPrim_fatal {s t : State} {pr : Prim} (h : s.doPrim pr = .fatal t) : ∃ p c, t = s.raiseFatal p c := by
  cases pr <;> simp only [State.doPrim] at h
  · exact ⟨_, _, State.platformCall_fatal_eq h⟩
  · exact ⟨_, _, State.platformCall_fatal_eq h⟩
  · exact ⟨_, _, State.platformCall_fatal_eq h⟩
  · exact ⟨_, _, State.platformCall_fatal_eq h⟩
  · split at h
    · cases h
    · rename_i hr
      injection h with h
      exact ⟨_, _, h ▸ State.pinRead_fatal_eq hr⟩
  · split at h
    · cases h
    · rename_i hr
      injection h with h
      exact ⟨_, _, h ▸ State.pinRead_fatal_eq hr⟩
  · split at h
    · exact ⟨_, _, State.platformCall_fatal_eq h⟩
    · cases h
  · cases h

theorem State.doOp_fatal {s t : State} {op : MicroOp} (h : s.doOp op = .fatal t) :
    ∃ p c, t = (s.regAct op.act).raiseFatal p c := State.doPrim_fatal h

/-- A run of micro-steps that does not complete leaves the engine HALTED with FATAL set. -/
theorem State.runSeq_fatal_halted {i : Instr} {ops : List MicroOp} {k : Nat} {s t : State}
    (h : State.runSeq i k ops s = .fatal t) : t.phase = .halted ∧ t.fatal = true := by
  induction ops generalizing k s with
  | nil => cases h
  | cons op rest ih =>
    cases hd : (s.enter i k).doOp op with
    | done v u => rw [State.runSeq_cons_done hd] at h; exact ih h
    | fatal u =>
      rw [State.runSeq_cons_fatal hd] at h
      injection h with h
      obtain ⟨p, c, e⟩ := State.doOp_fatal hd
      subst h e
      simp

/-! ### What a micro-step that completes does -/

/-- A micro-step that completes appends events that account for its change of the pins, and leaves the fault state, the
diagnostic and the position. -/
structure State.Accounts (s t : State) : Prop where
  events : ∃ es, t.trace = s.trace ++ es ∧ es.foldl Lines.after s.lines = t.lines
  fatal : t.fatal = s.fatal
  fcode : t.fcode = s.fcode
  diag : t.diag = s.diag
  phase : t.phase = s.phase

theorem State.Accounts.refl (s : State) : s.Accounts s := ⟨⟨[], by simp⟩, rfl, rfl, rfl, rfl⟩

theorem State.platformCall_accounts {s t : State} {p : Pin} {c : CallKind} {q : PinCfg} {e : Event}
    (he : s.lines.after e = (s.setPin p q).lines) (h : s.platformCall p c q e = .done () t) : s.Accounts t := by
  rcases s.platformCall_cases p c q e with ⟨_, h2⟩ | ⟨_, h2⟩ <;> rw [h2] at h
  · injection h with _ h
    subst h
    exact ⟨⟨[e], by simp, by simpa [State.lines] using he⟩, by simp, by simp, by simp, by simp⟩
  · cases h

theorem State.pinRead_accounts {s t : State} {p : Pin} {v : Int} (h : s.pinRead p = .done v t) : s.Accounts t := by
  rcases s.pinRead_cases p with ⟨_, h2⟩ | ⟨_, h2⟩ <;> rw [h2] at h
  · injection h with _ h
    subst h
    refine ⟨⟨[.read p (s.readValue p)], by simp, ?_⟩, by simp, by simp, by simp, by simp⟩
    cases p <;> simp [Lines.after, State.lines]
  · cases h

theorem State.doPrim_accounts {s t : State} {pr : Prim} (h : s.doPrim pr = .done () t) : s.Accounts t := by
  cases pr with
  | exportPin p => exact State.platformCall_accounts (by cases p <;> rfl) h
  | setDir p m => exact State.platformCall_accounts (by cases p <;> rfl) h
  | write p l => exact State.platformCall_accounts (by cases p <;> rfl) h
  | writeBit => exact State.platformCall_accounts rfl h
  | read p =>
    simp only [State.doPrim] at h
    split at h
    · rename_i hr
      injection h with _ h
      subst h
      have a := State.pinRead_accounts hr
      exact ⟨a.events, a.fatal, a.fcode, a.diag, a.phase⟩
    · cases h
  | sample =>
    simp only [State.doPrim] at h
    split at h
    · rename_i hr
      injection h with _ h
      subst h
      have a := State.pinRead_accounts hr
      exact ⟨a.events, a.fatal, a.fcode, a.diag, a.phase⟩
    · cases h
  | hold =>
    simp only [State.doPrim] at h
    split at h
    · exact State.platformCall_accounts rfl h
    · injection h with _ h
      exact h ▸ State.Accounts.refl s
  | wait b =>
    injection h with _ h
    subst h
    exact ⟨⟨[.wait b], rfl, rfl⟩, rfl, rfl, rfl, rfl⟩

theorem State.doOp_accounts {s t : State} {op : MicroOp} (h : s.doOp op = .done () t) : s.Accounts t := by
  have a := State.doPrim_accounts h
  have hl : (s.regAct op.act).lines = s.lines := by simp [State.lines]
  exact ⟨by simpa [hl] using a.events, by simpa using a.fatal, by simpa using a.fcode, by simpa using a.diag,
    by simpa using a.phase⟩

/-! ### What a primitive that completes does to the transient registers -/

theorem State.platformCall_xfer {s t : State} {p : Pin} {c : CallKind} {q : PinCfg} {e : Event}
    (h : s.platformCall p c q e = .done () t) : t.xfer = s.xfer := by
  rcases s.platformCall_cases p c q e with ⟨_, h2⟩ | ⟨_, h2⟩ <;> rw [h2] at h
  · injection h with _ h
    simp [← h]
  · cases h

theorem State.pinRead_xfer {s t : State} {p : Pin} {v : Int} (h : s.pinRead p = .done v t) : t.xfer = s.xfer := by
  rcases s.pinRead_cases p with ⟨_, h2⟩ | ⟨_, h2⟩ <;> rw [h2] at h
  · injection h with _ h
    simp [← h]
  · cases h

/-- Only the sample writes a transient register: ACKV (R101). -/
theorem State.doPrim_xfer {s t : State} {pr : Prim} (h : s.doPrim pr = .done () t) :
    (pr = .sample ∧ ∃ v, t.xfer = s.xfer.map (fun x => { x with ackv := some v })) ∨
    (pr ≠ .sample ∧ t.xfer = s.xfer) := by
  cases pr <;> simp only [State.doPrim] at h
  · exact .inr ⟨by simp, State.platformCall_xfer h⟩
  · exact .inr ⟨by simp, State.platformCall_xfer h⟩
  · exact .inr ⟨by simp, State.platformCall_xfer h⟩
  · exact .inr ⟨by simp, State.platformCall_xfer h⟩
  · split at h
    · rename_i hr
      injection h with _ h
      exact .inr ⟨by simp, by rw [← h, ← State.pinRead_xfer hr]; rfl⟩
    · cases h
  · split at h
    · rename_i hr
      injection h with _ h
      exact .inl ⟨rfl, _, by rw [← h, ← State.pinRead_xfer hr]; rfl⟩
    · cases h
  · split at h
    · exact .inr ⟨by simp, State.platformCall_xfer h⟩
    · injection h with _ h
      exact .inr ⟨by simp, by rw [h]⟩
  · injection h with _ h
    exact .inr ⟨by simp, by rw [← h]; rfl⟩

/-! ### Edges -/

/-- An unchanged level makes no condition (R114). -/
@[simp] theorem edge_self (l : Level) : edge l l = [] := by cases l <;> rfl

@[simp] theorem edge_down : edge true false = [.start] := rfl
@[simp] theorem edge_up : edge false true = [.stop] := rfl

end Sys2Proof.Machine
end

