-- ==== Sys2Proof/Tests/Slice0.lean ====
section
/-! SUPPORT. Tests of the model on the vectors of spec/95_test_vectors.md, and for each statement with hypotheses a witness
that meets them. -/

namespace Sys2Proof.Tests

open Sys2Proof Sys2Proof.Machine

/-- An exported output with latch 1. -/
def upPin : PinCfg := ⟨true, .out, true⟩

/-- READ_VALUES at the spec's default, {0, 1} (R7): entry n of a read script is the level n. -/
def bits : ReadValues := .these 0 [1]

/-- Both pins exported outputs, latches 1, the next n calls answered OK, the reads answered by rs. -/
def ready (n : Nat) (rs : List Nat) : State := State.launch upPin upPin (List.replicate n .ok) rs bits []

/-- As `ready`, with call number n failing. -/
def failing (n : Nat) (rs : List Nat) : State :=
  State.launch upPin upPin (List.replicate n .ok ++ [.fail]) rs bits []

/-- Both pins in input mode, exported, latches 1. -/
def listening (n : Nat) (rs : List Nat) : State :=
  State.launch ⟨true, .inp, true⟩ ⟨true, .inp, true⟩ (List.replicate n .ok) rs bits []

/-- The next state of an outcome. -/
def after : Host.Outcome State Fault Refusal → State
  | .next s => s
  | .fault _ => State.reset
  | .refused _ => State.reset

theorem ready_answersOk (n : Nat) (rs : List Nat) : (ready n rs).answersOk n :=
  State.answersOk_of_script _ _ (fun j hj => by simp [ready, State.launch, hj])

theorem failing_answersOk (n : Nat) (rs : List Nat) : (failing n rs).answersOk n :=
  State.answersOk_of_script _ _ (fun j hj => by simp [failing, State.launch, List.getElem?_append, hj])

theorem failing_fails (n : Nat) (rs : List Nat) (p : Pin) (c : CallKind) :
    (failing n rs).outcomeAt p c ((failing n rs).calls + n) = .fail := by
  simp [failing, State.launch, State.outcomeAt]

/-! ### Well-formedness, encoding -/

/-- R69: the digits 10 and 15 are ill formed, 0 and 9 are well formed. -/
theorem test_wellFormed_digit :
    (Instr.segmap 10 false).wellFormed = false ∧ (Instr.segmap 15 true).wellFormed = false ∧
    (Instr.segmap 9 true).wellFormed = true ∧ (Instr.segmap 0 false).wellFormed = true := by decide

/-- R58, format P, w[0] = 1: PEXP DIO, and bit 1 must be zero. -/
theorem test_decode_pexp :
    decode 0b0001000000000001 = .instr (.pexp .dio) ∧ decode 0x1000 = .instr (.pexp .clk) ∧
    decode 0x1002 = .reject .mustBeZero := by decide

/-- R58, format PM, M = 1, P = 0. -/
theorem test_decode_pdir :
    decode 0b0010000000000010 = .instr (.pdir .clk .out) ∧ decode 0x2001 = .instr (.pdir .dio .inp) ∧
    decode 0x2004 = .reject .mustBeZero := by decide

/-- R58, format PL, L = 0, P = 1. -/
theorem test_decode_pwr :
    decode 0b0011000000000001 = .instr (.pwr .dio false) ∧ decode 0x3002 = .instr (.pwr .clk true) := by decide

/-- R58, format P. -/
theorem test_decode_prd :
    decode 0b0100000000000000 = .instr (.prd .clk) ∧ decode 0x4001 = .instr (.prd .dio) := by decide

/-- R58, format N. -/
theorem test_decode_start : decode 0b0101000000000000 = .instr .start ∧ decode 0x5001 = .reject .mustBeZero := by decide

/-- R58, format N. -/
theorem test_decode_stop : decode 0b0110000000000000 = .instr .stop ∧ decode 0x6800 = .reject .mustBeZero := by decide

/-- R58, format B: `wbyte 0x8f` is 0x708F (R93). -/
theorem test_decode_wbyte :
    decode 0b0111000010001111 = .instr (.wbyte 0x8F) ∧ decode 0x7100 = .reject .mustBeZero := by decide

/-- R58, format CS: `disp 3, 0xed` is 0x83ED (R121). -/
theorem test_decode_disp :
    decode 0b1000001111101101 = .instr (.disp 3 0xED) ∧ decode 0x8400 = .reject .mustBeZero := by decide

/-- R58, format DP: `segmap 5, pt` is 0x9015 (R131). -/
theorem test_decode_segmap :
    decode 0b1001000000010101 = .instr (.segmap 5 true) ∧ decode 0x900A = .reject .digitAboveNine ∧
    decode 0x9020 = .reject .mustBeZero ∧ decode 0xF000 = .reject .reservedOpcode := by decide

/-- R71: the assembler's words and text. -/
theorem test_assembler :
    assemble [.init, .command (.wbyte 0x8F), .ddig 1 6 true] =
      [0x1000, 0x1001, 0x2002, 0x2003, 0x708F, 0x9016, 0x81FD] ∧
    asmText (.disp 3 0xED) = "disp 3, 0xed" ∧ asmText (.pdir .dio .out) = "pdir dio, out" := by decide

/-- A word placed for the first step after reset is fetched and run. -/
theorem test_fetch_first_word :
    (after (step (State.reset.withFetchWord 16 0x9015))).replies = [.mask 0xED] ∧
    decodeTableWord 16 0x9015 = some (.segmap 5 true) := by decide

/-- R22: the layout of PCFG. -/
theorem test_pcfg :
    (PinCfg.mk true .inp false).pcfg = 0b001 ∧ (PinCfg.mk false .out false).pcfg = 0b010 ∧
    (PinCfg.mk false .inp true).pcfg = 0b100 := by decide

/-! ### Commands, on the vectors of spec/95_test_vectors.md -/

/-- V-P1. -/
theorem test_pexp_ok :
    let t := after (exec (.pexp .clk) (State.launch ⟨false, .inp, false⟩ upPin [.ok] [] bits []))
    t.clk = ⟨true, .inp, false⟩ ∧ t.trace = [.exported .clk] ∧ t.replies = [.noValue] := by decide

/-- V-P2. -/
theorem test_pexp_fail :
    let t := after (exec (.pexp .clk) (failing 0 []))
    t.fatal = true ∧ t.fcode.number = 1 ∧ t.trace = [] ∧ t.phase = .halted := by decide

/-- V-P3, Program 4. -/
theorem test_pdir_unexported :
    let t := after (exec (.pdir .dio .out) (State.launch upPin ⟨false, .inp, false⟩ [.ok] [] bits []))
    t.fatal = true ∧ t.fcode.number = 2 ∧ t.phase = .halted ∧ t.trace = [] ∧ t.replies = [] := by decide

/-- V-P4. -/
theorem test_pdir_ok :
    let t := after (exec (.pdir .dio .out) (listening 1 []))
    t.dio = ⟨true, .out, true⟩ ∧ t.trace = [.dir .dio .out] ∧ t.line .dio 0 = 1 := by decide

/-- V-P5: a write to an input changes the latch only. -/
theorem test_pwr_input :
    let t := after (exec (.pwr .dio false) (listening 1 []))
    t.dio = ⟨true, .inp, false⟩ ∧ t.trace = [.write .dio false] ∧ t.line .dio 1 = 1 := by decide

/-- V-P6. -/
theorem test_pwr_unexported :
    let t := after (exec (.pwr .clk true) (State.launch ⟨false, .out, false⟩ upPin [.ok] [] bits []))
    t.fatal = true ∧ t.fcode.number = 3 := by decide

/-- V-P7. -/
theorem test_prd_output :
    let t := after (exec (.prd .dio) (ready 1 []))
    t.replies = [.level 1] ∧ t.trace = [.read .dio 1] ∧ t.reads = 0 := by decide

/-- V-P9: two reads of an input draw twice. -/
theorem test_prd_input_twice :
    (after (exec (.prd .dio) (after (exec (.prd .dio) (listening 2 [0, 1]))))).replies = [.level 0, .level 1] := by
  decide

/-- V-F2: START with DIO low makes a stop condition first. -/
theorem test_start_dio_low :
    let s := State.launch upPin ⟨true, .out, false⟩ (List.replicate 4 .ok) [] bits []
    let t := after (exec .start s)
    t.trace = startEvents ∧ t.clk.lat = false ∧ t.dio.lat = false ∧ s.lines.conditions t.trace = [.stop, .start] := by
  decide

/-- V-F7: START on an unexported CLK. -/
theorem test_start_unexported :
    let t := after (exec .start (State.launch ⟨false, .out, true⟩ upPin [] [] bits []))
    t.fcode.number = 3 ∧ t.trace = [] ∧ t.dio = upPin := by decide

/-- V-F5: STOP after an acknowledged byte. -/
theorem test_stop_after_ack :
    let s := State.launch upPin ⟨true, .out, false⟩ (List.replicate 4 .ok) [] bits []
    let t := after (exec .stop s)
    t.trace = stopEvents ∧ t.clk.lat = true ∧ t.dio.lat = true ∧ s.lines.conditions t.trace = [.stop] := by decide

/-- V-W8: 0x8F acknowledged, 50 events. -/
theorem test_wbyte_ack :
    let t := after (exec (.wbyte 0x8F) (ready 31 [0]))
    t.trace.length = 50 ∧ t.replies = [.ack 0] ∧ t.dio = ⟨true, .out, false⟩ ∧ t.clk.lat = true ∧
    (ready 0 []).lines.bitsTaken t.trace = [1, 1, 1, 1, 0, 0, 0, 1, 1].map (fun n : Nat => some (n == 1)) := by decide

/-- V-W15: the platform fails the read. -/
theorem test_wbyte_read_fails :
    let t := after (exec (.wbyte 0x00) (failing 28 []))
    t.fcode.number = 4 ∧ t.trace.length = 45 ∧ t.trace.getLast? = some (.wait .tAck) ∧ t.phase = .halted ∧
    t.replies = [] := by decide

/-- V-W13: a sample of 2 is no acknowledgment, with READ_VALUES any set that holds 2. -/
theorem test_wbyte_sample_two :
    let t := after (exec (.wbyte 0x00) (State.launch upPin upPin (List.replicate 30 .ok) [0] (.these 2 []) []))
    t.trace.length = 49 ∧ t.replies = [.ack 2] ∧ t.dio = upPin := by decide

/-- R26, R94: BC is the number of bits already sent, at the first and at the last data bit and after it; SR is present from
micro-step 0, ACKV once micro-step 45 has sampled it. -/
theorem test_byte_write_registers :
    let s := (ready 31 [0]).commence (.wbyte 0x8F)
    s.phase = .busy (.wbyte 0x8F) 0 ∧ s.xfer = some ⟨0x8F, 0, none⟩ ∧
    (s.microRun 4).xfer = some ⟨0x8F, 0, none⟩ ∧ (s.microRun 5).xfer = some ⟨0x8F, 1, none⟩ ∧
    (s.microRun 39).xfer = some ⟨0x8F, 7, none⟩ ∧ (s.microRun 40).xfer = some ⟨0x8F, 8, none⟩ ∧
    (s.microRun 45).xfer = some ⟨0x8F, 8, none⟩ ∧ (s.microRun 46).xfer = some ⟨0x8F, 8, some 0⟩ := by decide +kernel

/-- R16, R26: in a DISP the transient registers exist in each byte write and not in the START and STOP around it. -/
theorem test_disp_registers :
    let s := (ready 148 [0, 0, 0, 0]).commence (.disp 3 0xED)
    s.xfer = none ∧ (s.microRun 4).xfer = some ⟨0x40, 0, none⟩ ∧ (s.microRun 53).xfer = some ⟨0x40, 8, some 0⟩ ∧
    (s.microRun 54).phase = .busy (.disp 3 0xED) 54 ∧ (s.microRun 54).xfer = none ∧
    (s.microRun 62).xfer = some ⟨0xC3, 0, none⟩ ∧ (s.microRun 112).xfer = some ⟨0xED, 0, none⟩ := by decide +kernel

/-- R187: a PDIR of DIO to input with CLK high, DIO's latch high and the receiver holding DIO low is a start condition. -/
theorem test_pdir_condition :
    let t := after (exec (.pdir .dio .inp) (ready 1 []))
    (ready 1 []).lines.wireConditions (fun _ => ⟨true, false⟩) t.trace = [.start] ∧
    (ready 1 []).lines.wireConditions (fun _ => ⟨true, true⟩) t.trace = [] := by decide

/-- V-D3: 222 events, 146 platform calls. -/
theorem test_disp_events :
    let t := after (exec (.disp 3 0xED) (ready 148 [0, 1, 0, 1]))
    t.trace.length = 222 ∧ t.calls = 146 ∧ t.replies = [.noValue] ∧ t.clk = upPin ∧ t.dio = upPin := by decide +kernel

/-- V-X1: the platform fails the first data write of transaction 2. -/
theorem test_disp_fails_in_transaction_two :
    let t := after (exec (.disp 0 0x3F) (failing 43 [0]))
    t.fcode.number = 3 ∧ t.trace.length = 62 ∧ t.phase = .halted ∧ t.diag = some (.clk, .write false) ∧
    t.dio = ⟨true, .out, false⟩ := by decide +kernel

/-- V-S3, V-H3: digit 6 carries the separator bit; the table of R138. -/
theorem test_segmap_table :
    (List.range 10).map (fun d => segMask (BitVec.ofNat 4 d) false) =
      [0x3F, 0x06, 0x5B, 0x4F, 0x66, 0x6D, 0xFD, 0x07, 0x7F, 0x6F].map some ∧
    segMask 5 true = some 0xED ∧ segMask 6 true = some 0xFD ∧ segMask 8 true = some 0xFF ∧
    litSegments 0x5B = [.a, .b, .d, .e, .g] := by decide

/-- V-X2: the word 0x5001. -/
theorem test_refused_word :
    let t := after (step (State.reset.withFetchWord 16 0x5001))
    t.refused = true ∧ t.trace = [] ∧ t.replies = [] ∧ t.phase = .idle := by decide

/-- V-S1, V-S2, V-H4: the masks of the reference host. -/
theorem test_reference_host_masks :
    (TimeSample.mk 9 5).masks true = [0xBF, 0xEF, 0xBF, 0xED] ∧
    (TimeSample.mk 23 59).masks false = [0x5B, 0x4F, 0x6D, 0x6F] ∧
    (TimeSample.mk 16 36).masks true = [0x86, 0xFD, 0xCF, 0xFD] ∧
    (TimeSample.mk 23 59).cycleWords false = [0x9002, 0x805B, 0x9003, 0x814F, 0x9005, 0x826D, 0x9009, 0x836F] := by
  decide

/-! ### Witnesses of the statements' hypotheses -/

/-- `DecodeOfEncodeIsTheCommand`, at the last legal digit. -/
theorem witness_DecodeOfEncodeIsTheCommand : (Instr.segmap 9 true).wellFormed = true := by decide

/-- `DecodedWordIsTheEncoding`. -/
theorem witness_DecodedWordIsTheEncoding : decode 0x9019 = .instr (.segmap 9 true) := by decide

/-- `StepRunsTheDecodedCommand`. -/
theorem witness_StepRunsTheDecodedCommand :
    (State.reset.handWord 0x5000).phase = .idle ∧ (State.reset.handWord 0x5000).hostWords = [0x5000] ∧
    decode 0x5000 = .instr .start := by decide

/-- `RefusedWordOnlySetsRefused`: boundary words of each clause, and the words beside them that name a command. -/
theorem witness_RefusedWordOnlySetsRefused :
    (State.reset.handWord 0x5001).phase = .idle ∧ (State.reset.handWord 0x5001).hostWords = [0x5001] ∧
    ([0x0000, 0x0FFF, 0xA000, 0xFFFF, 0x1002, 0x4800, 0x2004, 0x3800, 0x5001, 0x6800, 0x7100, 0x7800, 0x8400, 0x8800,
      0x9020, 0x9800, 0x900A, 0x901F] : List Word).all (fun w => decide (namesNoCommand w)) = true ∧
    ([0x1001, 0x4001, 0x2003, 0x3003, 0x5000, 0x6000, 0x70FF, 0x83FF, 0x9009, 0x9019] : List Word).all
      (fun w => !decide (namesNoCommand w)) = true := by decide

/-- `IdleEngineWithoutAWordWaits`. -/
theorem witness_IdleEngineWithoutAWordWaits : State.reset.phase = .idle ∧ State.reset.hostWords = [] := by decide

/-- `HaltedEngineHasNoStep`: the state a failed export leaves. -/
theorem witness_HaltedEngineHasNoStep : (after (exec (.pexp .clk) (failing 0 []))).phase = .halted := by decide

/-- `BusyEngineTakesNoWord`. -/
theorem witness_BusyEngineTakesNoWord : ((ready 4 []).enter .start 0).phase = .busy .start 0 := rfl

/-- `MicroStepAdvancesByOnePrimitive`, one state for each of the four ends, and the hold taken after an acknowledgment. -/
theorem witness_MicroStepAdvancesByOnePrimitive :
    (0 < (program .start).length ∧ (after (step ((ready 1 []).enter .start 0))).phase = .busy .start 1) ∧
    (45 < (program (.wbyte 0)).length ∧
      (after (step ((((listening 1 [1]).regAct (.load 0)).enter (.wbyte 0) 45)))).phase = .busy (.wbyte 0) 47) ∧
    (after (step ((((listening 1 [0]).regAct (.load 0)).enter (.wbyte 0) 45)))).phase = .busy (.wbyte 0) 46 ∧
    (3 < (program .stop).length ∧ (after (step ((ready 1 []).enter .stop 3))).phase = .idle) ∧
    (after (step ((failing 0 []).enter .stop 3))).phase = .halted := by decide

/-- `CommandIsItsMicroSteps`. -/
theorem witness_CommandIsItsMicroSteps :
    (ready 31 [0]).phase = .idle ∧ (Instr.wbyte 0x8F).wellFormed = true ∧ (Instr.segmap 9 false).wellFormed = true := by
  decide

/-- `EveryCommandCompletesOrHalts`, both ends. -/
theorem witness_EveryCommandCompletesOrHalts :
    (ready 4 []).phase = .idle ∧ (after (exec .start (ready 4 []))).phase = .idle ∧
    (after (exec .start (failing 3 []))).phase = .halted := by decide

/-- `PexpExportsThePin`, both clauses. -/
theorem witness_PexpExportsThePin :
    (ready 1 []).phase = .idle ∧ (ready 1 []).outcomeAt .clk .exportPin (ready 1 []).calls = .ok ∧
    (failing 0 []).phase = .idle ∧ (failing 0 []).outcomeAt .clk .exportPin (failing 0 []).calls = .fail := by decide

/-- `PdirSetsTheDirection`: success, an unexported pin, a failed call. -/
theorem witness_PdirSetsTheDirection :
    (ready 1 []).phase = .idle ∧ ((ready 1 []).pin .dio).exp = true ∧
    (ready 1 []).outcomeAt .dio (.setDir .inp) (ready 1 []).calls = .ok ∧
    State.reset.phase = .idle ∧ (State.reset.pin .dio).exp = false ∧
    (failing 0 []).outcomeAt .dio (.setDir .inp) (failing 0 []).calls = .fail := by decide

/-- `PwrWritesTheLatch`: success, an unexported pin, a failed call. -/
theorem witness_PwrWritesTheLatch :
    (ready 1 []).phase = .idle ∧ ((ready 1 []).pin .clk).exp = true ∧
    (ready 1 []).outcomeAt .clk (.write true) (ready 1 []).calls = .ok ∧
    State.reset.phase = .idle ∧ (State.reset.pin .clk).exp = false ∧
    (failing 0 []).outcomeAt .clk (.write true) (failing 0 []).calls = .fail := by decide

/-- `PrdRepliesTheLevel`: an output, an input, an unexported pin, a failed call. -/
theorem witness_PrdRepliesTheLevel :
    ((ready 1 []).phase = .idle ∧ ((ready 1 []).pin .dio).exp = true ∧
      (ready 1 []).outcomeAt .dio .read (ready 1 []).calls = .ok ∧ ((ready 1 []).pin .dio).dir = .out) ∧
    ((listening 1 []).phase = .idle ∧ ((listening 1 []).pin .dio).exp = true ∧
      (listening 1 []).outcomeAt .dio .read (listening 1 []).calls = .ok ∧ ((listening 1 []).pin .dio).dir = .inp) ∧
    (State.reset.phase = .idle ∧ (State.reset.pin .dio).exp = false) ∧
    (failing 0 []).outcomeAt .dio .read (failing 0 []).calls = .fail := by decide

/-- `StartMakesItsFourWrites`, `StopMakesItsFourWrites`, `StartMakesAStartCondition`, `StopMakesAStopCondition`. -/
theorem witness_StartAndStop :
    (ready 4 []).phase = .idle ∧ (ready 4 []).clk.exp = true ∧ (ready 4 []).clk.dir = .out ∧
    (ready 4 []).dio.exp = true ∧ (ready 4 []).dio.dir = .out ∧ (ready 4 []).answersOk 4 :=
  ⟨rfl, rfl, rfl, rfl, rfl, ready_answersOk 4 []⟩

/-- `FramingHaltsAtTheFailingWrite`, at the last call. -/
theorem witness_FramingHaltsAtTheFailingWrite :
    (failing 3 []).phase = .idle ∧ (failing 3 []).clk.exp = true ∧ (failing 3 []).dio.exp = true ∧ 3 < 4 ∧
    (failing 3 []).answersOk 3 ∧ ∀ p c, (failing 3 []).outcomeAt p c ((failing 3 []).calls + 3) = .fail :=
  ⟨rfl, rfl, rfl, by decide, failing_answersOk 3 [], failing_fails 3 []⟩

/-- `WbyteSendsTheByteAndRepliesTheSample`, acknowledged and not, and `WbyteSendsBitsLeastSignificantFirst`. -/
theorem witness_WbyteSendsTheByteAndRepliesTheSample :
    ((ready 31 [0]).phase = .idle ∧ (ready 31 [0]).clk.exp = true ∧ (ready 31 [0]).clk.dir = .out ∧
      (ready 31 [0]).dio.exp = true ∧ (ready 31 [0]).dio.dir = .out ∧
      (ready 31 [0]).envValueAt .dio (ready 31 [0]).reads = 0 ∧
      (ready 31 [0]).answersOk (if (0 : Int) = 0 then 31 else 30)) ∧
    ((ready 30 [1]).envValueAt .dio (ready 30 [1]).reads = 1 ∧
      (ready 30 [1]).answersOk (if (1 : Int) = 0 then 31 else 30)) :=
  ⟨⟨rfl, rfl, rfl, rfl, rfl, rfl, ready_answersOk 31 [0]⟩, rfl, ready_answersOk 30 [1]⟩

/-- `AcknowledgmentWindowReleasesDio`: both ends of the window in a WBYTE with an acknowledgment, and in the first and the
last byte write of a DISP without one, which skips a micro-step in each. -/
theorem witness_AcknowledgmentWindowReleasesDio :
    (((ready 31 [0]).commence (.wbyte 0x8F)).microRun 48).phase = .busy (.wbyte 0x8F) 48 ∧
    (((ready 31 [0]).commence (.wbyte 0x8F)).microRun 44).phase = .busy (.wbyte 0x8F) 44 ∧
    byteWriteAt (.wbyte 0x8F) 48 = some (0x8F, 48) ∧ byteWriteAt (.wbyte 0x8F) 44 = some (0x8F, 44) ∧
    (((ready 148 [1, 1, 1, 1]).commence (.disp 3 0xED)).microRun 48).phase = .busy (.disp 3 0xED) 48 ∧
    byteWriteAt (.disp 3 0xED) 48 = some (0x40, 44) ∧
    (((ready 148 [1, 1, 1, 1]).commence (.disp 3 0xED)).microRun 214).phase = .busy (.disp 3 0xED) 218 ∧
    byteWriteAt (.disp 3 0xED) 218 = some (0x8F, 48) := by decide +kernel

/-- `AcknowledgmentPulseOnTheWire`: a pulse at the last moment before the sample, and none. -/
theorem witness_AcknowledgmentPulseOnTheWire :
    ((ready 31 [0]).phase = .idle ∧ (ready 31 [0]).clk.exp = true ∧ (ready 31 [0]).clk.dir = .out ∧
      (ready 31 [0]).dio.exp = true ∧ (ready 31 [0]).dio.dir = .out ∧
      (ready 31 [0]).envValueAt .dio (ready 31 [0]).reads = 0 ∧ (ready 31 [0]).answersOk 31 ∧
      ∃ env : Nat → EnvLevels, ∀ n, (env n).dio = decide (n ≤ 44)) ∧
    ((ready 30 [1]).phase = .idle ∧ (ready 30 [1]).envValueAt .dio (ready 30 [1]).reads ≠ 0 ∧
      (ready 30 [1]).answersOk 30 ∧ ∃ env : Nat → EnvLevels, ∀ n, (env n).dio = true) :=
  ⟨⟨rfl, rfl, rfl, rfl, rfl, rfl, ready_answersOk 31 [0], ⟨fun n => ⟨true, decide (n ≤ 44)⟩, fun _ => rfl⟩⟩,
    rfl, by decide, ready_answersOk 30 [1], ⟨fun _ => ⟨true, true⟩, fun _ => rfl⟩⟩

/-- `DioChangesWithTheClockHighAreConditions`, the clauses of PDIR and PWR; those of START and STOP have
`witness_StartAndStop`. -/
theorem witness_DioChangesWithTheClockHighAreConditions :
    (ready 1 []).phase = .idle ∧ (ready 1 []).clk.driven = some true ∧ (ready 1 []).dio.exp = true ∧
    (ready 1 []).outcomeAt .dio (.setDir .inp) (ready 1 []).calls = .ok ∧
    (ready 1 []).outcomeAt .dio (.write false) (ready 1 []).calls = .ok := by decide

/-- `TransientRegistersTrackTheByteWrite`: a state in the middle of a byte write, and its step. -/
theorem witness_TransientRegistersTrackTheByteWrite :
    (((ready 31 [0]).commence (.wbyte 0x8F)).xferFits ∧
      ∃ t, step ((ready 31 [0]).commence (.wbyte 0x8F)) = .next t ∧ t.phase = .busy (.wbyte 0x8F) 1) ∧
    (ready 31 [0]).xfer = none :=
  ⟨⟨⟨⟨0x8F, 0, none⟩, rfl, rfl, by decide, by decide⟩, ⟨_, rfl, by decide⟩⟩, rfl⟩

/-- `DispHaltsAtTheFailingCall`: the first call, the last one, and the write of transaction 2's first bit (V-X1). -/
theorem witness_DispHaltsAtTheFailingCall (n : Nat) (hn : n = 0 ∨ n = 145 ∨ n = 43) :
    let s := failing n [0, 1, 0, 1]
    s.phase = .idle ∧ s.clk.exp = true ∧ s.dio.exp = true ∧
    s.envValueAt .dio s.reads = 0 ∧ s.envValueAt .dio (s.reads + 1) = 1 ∧ s.envValueAt .dio (s.reads + 2) = 0 ∧
    s.envValueAt .dio (s.reads + 3) = 1 ∧
    n < 144 + (if (0 : Int) = 0 then 1 else 0) + (if (1 : Int) = 0 then 1 else 0) + (if (0 : Int) = 0 then 1 else 0) +
      (if (1 : Int) = 0 then 1 else 0) ∧
    s.answersOk n ∧ ∀ p k, s.outcomeAt p k (s.calls + n) = .fail :=
  ⟨rfl, rfl, rfl, rfl, rfl, rfl, rfl, by simp; omega, failing_answersOk n _, failing_fails n _⟩

/-- `WbyteHaltsAtTheFailingCall`, at the read. -/
theorem witness_WbyteHaltsAtTheFailingCall :
    (failing 28 [0]).phase = .idle ∧ (failing 28 [0]).clk.exp = true ∧ (failing 28 [0]).dio.exp = true ∧
    (failing 28 [0]).envValueAt .dio (failing 28 [0]).reads = 0 ∧ 28 < (if (0 : Int) = 0 then 31 else 30) ∧
    (failing 28 [0]).answersOk 28 ∧
    ∀ p c, (failing 28 [0]).outcomeAt p c ((failing 28 [0]).calls + 28) = .fail :=
  ⟨rfl, rfl, rfl, rfl, by decide, failing_answersOk 28 [0], failing_fails 28 [0]⟩

/-- A state with CLK exported, DIO not, and one call answered OK. -/
def dioUnexported : State := State.launch upPin ⟨false, .inp, false⟩ [.ok] [] bits []

/-- `LineCommandsNeedExportedPins`, both clauses. -/
theorem witness_LineCommandsNeedExportedPins :
    (State.reset.phase = .idle ∧ State.reset.clk.exp = false) ∧
    (dioUnexported.phase = .idle ∧ dioUnexported.clk.exp = true ∧ dioUnexported.dio.exp = false ∧
      dioUnexported.answersOk 1) :=
  ⟨⟨rfl, rfl⟩, rfl, rfl, rfl, State.answersOk_of_script _ _ (fun j hj => by
    obtain rfl : j = 0 := by omega
    rfl)⟩

/-- `WbyteAcknowledgmentIsAReadValue`, and a WBYTE for the statements about what `exec` answers. -/
theorem witness_WbyteAcknowledgmentIsAReadValue :
    ∃ t, exec (.wbyte 0x8F) (ready 31 [0]) = .next t ∧ t.phase = .idle :=
  ⟨after (exec (.wbyte 0x8F) (ready 31 [0])), rfl, by decide⟩

/-- `DispSendsItsThreeTransactions`, with two acknowledgments of four. -/
theorem witness_DispSendsItsThreeTransactions :
    let s := ready 146 [0, 1, 0, 1]
    s.phase = .idle ∧ s.clk.exp = true ∧ s.dio.exp = true ∧
    s.envValueAt .dio s.reads = 0 ∧ s.envValueAt .dio (s.reads + 1) = 1 ∧ s.envValueAt .dio (s.reads + 2) = 0 ∧
    s.envValueAt .dio (s.reads + 3) = 1 ∧
    s.answersOk (144 + (if (0 : Int) = 0 then 1 else 0) + (if (1 : Int) = 0 then 1 else 0) +
      (if (0 : Int) = 0 then 1 else 0) + (if (1 : Int) = 0 then 1 else 0)) :=
  ⟨rfl, rfl, rfl, rfl, rfl, rfl, rfl, ready_answersOk 146 _⟩

/-- As `ready`, with DIO's latch 0: the lines an acknowledged byte leaves. -/
def readyLow (n : Nat) : State := State.launch upPin ⟨true, .out, false⟩ (List.replicate n .ok) [] bits []

theorem readyLow_answersOk (n : Nat) : (readyLow n).answersOk n :=
  State.answersOk_of_script _ _ (fun j hj => by simp [readyLow, State.launch, hj])

/-- `DispFramesThreeTransactions`, with DIO high and with DIO low. -/
theorem witness_DispFramesThreeTransactions :
    ((ready 148 []).phase = .idle ∧ (ready 148 []).clk.exp = true ∧ (ready 148 []).clk.dir = .out ∧
      (ready 148 []).dio.exp = true ∧ (ready 148 []).dio.dir = .out ∧ (ready 148 []).answersOk 148 ∧
      (ready 148 []).dio.lat = true) ∧
    ((readyLow 148).phase = .idle ∧ (readyLow 148).clk.exp = true ∧ (readyLow 148).clk.dir = .out ∧
      (readyLow 148).dio.exp = true ∧ (readyLow 148).dio.dir = .out ∧ (readyLow 148).answersOk 148 ∧
      (readyLow 148).dio.lat = false) :=
  ⟨⟨rfl, rfl, rfl, rfl, rfl, ready_answersOk 148 [], rfl⟩, rfl, rfl, rfl, rfl, rfl,
    readyLow_answersOk 148, rfl⟩

/-- `SegmapRepliesTheMask` and `SegmapAboveNineIsRefused`, at the digits where they meet. -/
theorem witness_Segmap :
    State.reset.phase = .idle ∧
    ([0x3F, 0x06, 0x5B, 0x4F, 0x66, 0x6D, 0xFD, 0x07, 0x7F, 0x6F] : List Byte)[(9 : BitVec 4).toNat]? = some 0x6F ∧
    9 < (10 : BitVec 4).toNat := by decide

/-- `SegmentMasksAreUnique`. -/
theorem witness_SegmentMasksAreUnique : segMask 6 false = some 0xFD ∧ segMask 6 true = some 0xFD := by decide

/-- `CommandsLeaveTheHostSideAlone` and `SegmapFrame`: a SEGMAP, which draws nothing. -/
theorem witness_CommandsLeaveTheHostSideAlone :
    (∃ t, exec (.segmap 5 true) State.reset = .next t) ∧ (Instr.segmap 5 true).wellFormed = true ∧
    (∀ p b c m, Instr.segmap 5 true ≠ .prd p ∧ Instr.segmap 5 true ≠ .wbyte b ∧ Instr.segmap 5 true ≠ .disp c m) :=
  ⟨⟨_, rfl⟩, rfl, fun _ _ _ _ => ⟨by simp, by simp, by simp⟩⟩

/-- `PinCommandsFrame`, completed and halted. -/
theorem witness_PinCommandsFrame :
    Pin.dio ≠ Pin.clk ∧
    (∃ t, exec (.pwr .clk false) (ready 1 []) = .next t ∧ t.phase = .idle) ∧
    (∃ t, exec (.pwr .clk false) (failing 0 []) = .next t ∧ t.phase = .halted) :=
  ⟨by decide, ⟨_, rfl, by decide⟩, ⟨_, rfl, by decide⟩⟩

/-- `LineCommandsFrame` and `FaultCodesByCommand`, completed and halted. -/
theorem witness_LineCommandsFrame :
    (∃ t, exec .start (ready 4 []) = .next t ∧ t.phase = .idle) ∧
    (∃ t, exec .start (failing 2 []) = .next t ∧ t.phase = .halted) :=
  ⟨⟨_, rfl, by decide⟩, ⟨_, rfl, by decide⟩⟩

/-- `EveryStepKeepsTheInvariant`, at a BUSY state and at reset; also a step for the other statements about every step. -/
theorem witness_EveryStepKeepsTheInvariant :
    (State.reset.Inv ∧ ∃ t, step State.reset = .next t) ∧
    ((((ready 4 []).enter .start 1).Inv) ∧ ∃ t, step ((ready 4 []).enter .start 1) = .next t ∧ t.phase ≠ .halted) := by
  refine ⟨⟨⟨by decide, by decide, by decide, by simp [State.reset, State.launch], trivial⟩, ⟨_, rfl⟩⟩,
    ⟨⟨by decide, by decide, by decide, fun _ => ⟨_, _, rfl⟩, ⟨rfl, by decide⟩⟩, ⟨_, rfl, by decide⟩⟩⟩

/-- `EveryStepOnlyAppendsToTrace`, `TraceAccountsForThePins`: a step that appends events, completed and halted. -/
theorem witness_TraceAccountsForThePins :
    (∃ t, step ((ready 4 []).handWord 0x5000) = .next t ∧ t.phase ≠ .halted ∧ t.trace = startEvents) ∧
    (∃ t, step ((failing 3 []).handWord 0x5000) = .next t ∧ t.phase = .halted ∧ t.trace = startEvents.take 3) :=
  ⟨⟨_, rfl, by decide, by decide⟩, ⟨_, rfl, by decide, by decide⟩⟩

/-- `FatalAndRefusedAreNeverCleared`: a refused engine steps on; a FATAL one that is not HALTED is no run's state. -/
theorem witness_FatalAndRefusedAreNeverCleared :
    (State.reset.refuse.refused = true ∧ ∃ t, step State.reset.refuse = .next t) ∧
    (∃ s : State, s.fatal = true ∧ ∃ t, step s = .next t) :=
  ⟨⟨rfl, ⟨_, rfl⟩⟩, ⟨{ State.reset with fatal := true }, rfl, ⟨_, rfl⟩⟩⟩

/-- `ExportIsNeverUndone`. -/
theorem witness_ExportIsNeverUndone :
    ((ready 4 []).pin .dio).exp = true ∧
    ∃ t, step ((ready 4 []).handWord 0x5000) = .next t ∧ t.phase ≠ .halted :=
  ⟨rfl, ⟨_, rfl, by decide⟩⟩

/-- `OutcomesOnlyDecideWhereTraceStops`: the same START, completed and halted. -/
theorem witness_OutcomesOnlyDecideWhereTraceStops :
    (∃ t, exec .start (ready 4 []) = .next t ∧ t.trace = startEvents) ∧
    (∃ u, exec .start { ready 4 [] with callScript := [.ok, .fail] } = .next u ∧ u.trace = [.write .clk true]) :=
  ⟨⟨_, rfl, by decide⟩, ⟨_, rfl, by decide⟩⟩

/-- `RefusalAndFaultNeverTogether`. -/
theorem witness_RefusalAndFaultNeverTogether :
    ∃ t, step (State.reset.handWord 0x5001) = .next t ∧ (State.reset.handWord 0x5001).refused = false ∧
      t.refused = true := ⟨_, rfl, rfl, by decide⟩

/-- `EveryCommandRepliesOnce`, completed and halted. -/
theorem witness_EveryCommandRepliesOnce :
    (Instr.prd .dio).wellFormed = true ∧
    (∃ t, exec (.prd .dio) (ready 1 []) = .next t ∧ t.phase = .idle) ∧
    (∃ t, exec (.prd .dio) (failing 0 []) = .next t ∧ t.phase = .halted) :=
  ⟨rfl, ⟨_, rfl, by decide⟩, ⟨_, rfl, by decide⟩⟩

end Sys2Proof.Tests
end

section
/-! PROOFS. Where the byte writes stand in each micro-program (R94, R122): what arriving at a position does to the transient
registers, where the sample and the acknowledgment hold are, and that `Start()` and `Stop()` hold nothing and load no byte. -/

namespace Sys2Proof.Machine

/-- What arriving at micro-step j of a byte write of b does to the transient registers (R94; log entry 14). -/
def byteWriteAct (b : Byte) (j : Nat) : RegAct :=
  if j = 0 then .load b else if j % 5 = 0 ∧ j ≤ 40 then .count (Fin.ofNat 9 (j / 5)) else .keep

theorem byteWriteOps_length (b : Byte) : (byteWriteOps b).length = 50 := rfl
theorem startOps_length : startOps.length = 4 := rfl
theorem stopOps_length : stopOps.length = 4 := rfl

/-- A feature of a byte write's micro-steps, read off position by position. -/
theorem byteWriteOps_feature {α : Type} {b : Byte} {f : MicroOp → α} {g : Nat → α}
    (h : (byteWriteOps b).map f = (List.range 50).map g) {j : Nat} {op : MicroOp}
    (hop : (byteWriteOps b)[j]? = some op) : f op = g j := by
  have hj : j < 50 := (List.getElem?_eq_some_iff.mp hop).1
  have hm : ((byteWriteOps b).map f)[j]? = ((List.range 50).map g)[j]? := by rw [h]
  simpa [hop, hj] using hm

theorem byteWriteOps_act {b : Byte} {j : Nat} {op : MicroOp} (hop : (byteWriteOps b)[j]? = some op) :
    op.act = byteWriteAct b j :=
  byteWriteOps_feature (f := MicroOp.act) rfl hop

/-- A byte write samples at its micro-step 45 only (R94). -/
theorem byteWriteOps_sample_iff {b : Byte} {j : Nat} {op : MicroOp} (hop : (byteWriteOps b)[j]? = some op) :
    op.prim = .sample ↔ j = 45 := by
  simpa using byteWriteOps_feature (f := fun op => decide (op.prim = .sample)) (g := fun j => decide (j = 45)) rfl hop

/-- A byte write has its acknowledgment hold at micro-step 46 only (R94, R104). -/
theorem byteWriteOps_hold_iff {b : Byte} {j : Nat} {op : MicroOp} (hop : (byteWriteOps b)[j]? = some op) :
    op.prim = .hold ↔ j = 46 := by
  simpa using byteWriteOps_feature (f := fun op => decide (op.prim = .hold)) (g := fun j => decide (j = 46)) rfl hop

/-! ### The positions of a byte write -/

theorem byteWriteAt_lt {i : Instr} {k j : Nat} {b : Byte} (h : byteWriteAt i k = some (b, j)) : j < 50 := by
  cases i <;> grind [byteWriteAt]

/-- Before micro-step 49 the next position is the next micro-step of the same byte write. -/
theorem byteWriteAt_succ {i : Instr} {k j : Nat} {b : Byte} (h : byteWriteAt i k = some (b, j)) (hj : j < 49) :
    byteWriteAt i (k + 1) = some (b, j + 1) := by
  cases i <;> grind [byteWriteAt]

/-- A byte write is entered at its micro-step 0 only. -/
theorem byteWriteAt_pred {i : Instr} {k j : Nat} {b : Byte} (h : byteWriteAt i (k + 1) = some (b, j + 1)) :
    byteWriteAt i k = some (b, j) := by
  cases i <;> grind [byteWriteAt]

/-- The first position of a command is outside the byte writes, or micro-step 0 of one. -/
theorem byteWriteAt_zero {i : Instr} {j : Nat} {b : Byte} (h : byteWriteAt i 0 = some (b, j)) : j = 0 := by
  cases i <;> grind [byteWriteAt]

/-! ### The layout of the micro-programs -/

theorem displayControlByte_eq : displayControlByte = 0x8F := rfl

/-- DISP's micro-program by position: the layout of R122. -/
theorem dispOps_getElem? (c : BitVec 2) (m : Byte) (k : Nat) :
    (dispOps c m)[k]? =
      if k < 4 then startOps[k]? else if k < 54 then (byteWriteOps 0x40)[k - 4]?
      else if k < 58 then stopOps[k - 54]? else if k < 62 then startOps[k - 58]?
      else if k < 112 then (byteWriteOps (0xC0 ||| c.setWidth 8))[k - 62]?
      else if k < 162 then (byteWriteOps m)[k - 112]?
      else if k < 166 then stopOps[k - 162]? else if k < 170 then startOps[k - 166]?
      else if k < 220 then (byteWriteOps 0x8F)[k - 170]? else stopOps[k - 220]? := by
  simp only [dispOps, List.getElem?_append, List.length_append, byteWriteOps_length, startOps_length, stopOps_length,
    autoAddressCommand, addressByte, displayControlByte_eq]
  grind

/-- Position k of a command is micro-step j of the byte write it belongs to. -/
theorem program_of_byteWriteAt {i : Instr} {k j : Nat} {b : Byte} (h : byteWriteAt i k = some (b, j)) :
    (program i)[k]? = (byteWriteOps b)[j]? := by
  cases i with
  | wbyte d => grind [byteWriteAt, program]
  | disp c m =>
    rw [program, dispOps_getElem?]
    grind [byteWriteAt]
  | _ => cases h

/-- Outside its byte writes a DISP runs micro-steps of `Start()` and `Stop()` only. -/
theorem dispOps_outside {c : BitVec 2} {m : Byte} {k : Nat} {op : MicroOp} (h : byteWriteAt (.disp c m) k = none)
    (hop : (dispOps c m)[k]? = some op) : op ∈ startOps ++ stopOps := by
  rw [dispOps_getElem?] at hop
  grind [byteWriteAt, List.mem_of_getElem?]

/-- The micro-steps of `Start()` and `Stop()` hold nothing and load no byte. -/
theorem framingOps_plain {op : MicroOp} (h : op ∈ startOps ++ stopOps) :
    op.prim ≠ .hold ∧ (op.act = .keep ∨ op.act = .drop) := by
  simp only [startOps, stopOps, List.cons_append, List.nil_append, List.mem_cons, List.not_mem_nil, or_false] at h
  rcases h with rfl | rfl | rfl | rfl | rfl | rfl | rfl | rfl <;> simp

/-- The one micro-step of a pin command holds nothing and leaves the transient registers. -/
theorem singleOp_plain {pr : Prim} (hp : pr ≠ .hold) {k : Nat} {op : MicroOp}
    (hop : [(⟨.keep, pr⟩ : MicroOp)][k]? = some op) : op.prim ≠ .hold ∧ (op.act = .keep ∨ op.act = .drop) := by
  have hm : op = ⟨.keep, pr⟩ := by simpa using List.mem_of_getElem? hop
  simp [hm, hp]

/-- Outside the byte writes no micro-step is a hold, and none loads a byte. -/
theorem program_outside {i : Instr} {k : Nat} {op : MicroOp} (h : byteWriteAt i k = none)
    (hop : (program i)[k]? = some op) : op.prim ≠ .hold ∧ (op.act = .keep ∨ op.act = .drop) := by
  cases i with
  | pexp p => exact singleOp_plain (by simp) hop
  | pdir p m => exact singleOp_plain (by simp) hop
  | pwr p l => exact singleOp_plain (by simp) hop
  | prd p => exact singleOp_plain (by simp) hop
  | start => exact framingOps_plain (List.mem_append_left _ (List.mem_of_getElem? hop))
  | stop => exact framingOps_plain (List.mem_append_right _ (List.mem_of_getElem? hop))
  | wbyte b => grind [byteWriteAt, program, byteWriteOps_length]
  | disp c m => exact framingOps_plain (dispOps_outside h hop)
  | segmap d pt => cases hop

/-- The micro-step after a byte write that no byte write follows drops the transient registers (log entry 14). -/
theorem program_after_byteWrite {i : Instr} {k j : Nat} {b : Byte} {op : MicroOp} (h : byteWriteAt i k = some (b, j))
    (hn : byteWriteAt i (k + 1) = none) (hop : (program i)[k + 1]? = some op) : op.act = .drop := by
  cases i with
  | wbyte d => grind [byteWriteAt, program, byteWriteOps_length]
  | disp c m =>
    have hk : k + 1 = 54 ∨ k + 1 = 162 ∨ k + 1 = 220 := by grind [byteWriteAt]
    rw [program, dispOps_getElem?] at hop
    rcases hk with hk | hk | hk <;> rw [hk] at hop <;> exact Option.some.inj hop ▸ rfl
  | _ => cases h

/-- The acknowledgment hold is micro-step 46 of a byte write (R94, R104). -/
theorem byteWriteAt_hold {i : Instr} {k : Nat} {a : RegAct} (h : (program i)[k]? = some ⟨a, .hold⟩) :
    ∃ b, byteWriteAt i k = some (b, 46) := by
  cases hb : byteWriteAt i k with
  | none => exact absurd rfl (program_outside hb h).1
  | some x =>
    obtain ⟨b, j⟩ := x
    have hj := (byteWriteOps_hold_iff (program_of_byteWriteAt hb ▸ h)).mp rfl
    exact ⟨b, by rw [hj]⟩

/-- A hold is never the last micro-step of a command. -/
theorem hold_succ_lt {i : Instr} {k : Nat} {a : RegAct} (h : (program i)[k]? = some ⟨a, .hold⟩) :
    k + 1 < (program i).length := by
  obtain ⟨b, hb⟩ := byteWriteAt_hold h
  have h47 := program_of_byteWriteAt (byteWriteAt_succ hb (by decide))
  exact (List.getElem?_eq_some_iff.mp h47).1

end Sys2Proof.Machine
end

section
/-! PROOFS. What a run of primitives, a command and a step can do, said once; the obligations of a step are read off it. -/

namespace Sys2Proof.Machine

/-! ### Progress: what completed primitives do -/

/-- From s to t the engine made the events that account for its pins, left the fault state and the diagnostic, and did not
clear REFUSED. Unlike `State.Accounts` it leaves PHASE open, so it chains along a whole command. -/
structure State.Progress (s t : State) : Prop where
  events : ∃ es, t.trace = s.trace ++ es ∧ es.foldl Lines.after s.lines = t.lines
  fatal : t.fatal = s.fatal
  fcode : t.fcode = s.fcode
  diag : t.diag = s.diag
  refused : s.refused = true → t.refused = true

theorem State.Progress.trans {s t u : State} (h : s.Progress t) (h' : t.Progress u) : s.Progress u := by
  obtain ⟨es, htr, hl⟩ := h.events
  obtain ⟨fs, htr', hl'⟩ := h'.events
  exact ⟨⟨es ++ fs, by simp [htr, htr'], by simp [hl, hl']⟩, h'.fatal.trans h.fatal, h'.fcode.trans h.fcode,
    h'.diag.trans h.diag, h'.refused ∘ h.refused⟩

/-- A change of PHASE, the transient registers, the replies or the host's side only. -/
theorem State.Progress.of_eq {s t : State} (hl : t.lines = s.lines) (htr : t.trace = s.trace)
    (hf : t.fatal = s.fatal) (hc : t.fcode = s.fcode) (hd : t.diag = s.diag)
    (hr : s.refused = true → t.refused = true) : s.Progress t :=
  ⟨⟨[], by simp [htr], by simp [hl]⟩, hf, hc, hd, hr⟩

theorem State.Progress.refl (s : State) : s.Progress s := .of_eq rfl rfl rfl rfl rfl id

theorem State.enter_progress (s : State) (i : Instr) (k : Nat) : s.Progress (s.enter i k) :=
  .of_eq rfl rfl rfl rfl rfl id

theorem State.complete_progress (s : State) (i : Instr) : s.Progress (s.complete i) := .of_eq rfl rfl rfl rfl rfl id

theorem State.refuse_progress (s : State) : s.Progress s.refuse := .of_eq rfl rfl rfl rfl rfl fun _ => rfl

theorem State.regAct_progress (s : State) (a : RegAct) : s.Progress (s.regAct a) :=
  .of_eq (by simp [State.lines]) (by simp) (by simp) (by simp) (by simp) (by simp)

theorem State.arrive_progress (s : State) (i : Instr) (k : Nat) : s.Progress (s.arrive i k) :=
  .of_eq (by simp [State.lines]) (by simp) (by simp) (by simp) (by simp) (by simp)

theorem State.doPrim_progress {s t : State} {pr : Prim} (h : s.doPrim pr = .done () t) : s.Progress t := by
  have ha := State.doPrim_accounts h
  have hs := s.doPrim_sameHost pr
  rw [h] at hs
  exact ⟨ha.events, ha.fatal, ha.fcode, ha.diag, fun hr => hs.refused.trans hr⟩

theorem State.doOp_progress {s t : State} {op : MicroOp} (h : s.doOp op = .done () t) : s.Progress t :=
  (s.regAct_progress op.act).trans (State.doPrim_progress h)

theorem State.runSeq_done_progress {i : Instr} {ops : List MicroOp} {k : Nat} {s t : State}
    (h : State.runSeq i k ops s = .done () t) : s.Progress t := by
  induction ops generalizing k s with
  | nil => cases h; exact .refl _
  | cons op rest ih =>
    cases hd : (s.enter i k).doOp op with
    | done v u =>
      rw [State.runSeq_cons_done hd] at h
      exact ((s.enter_progress i k).trans (State.doOp_progress hd)).trans (ih h)
    | fatal u => rw [State.runSeq_cons_fatal hd] at h; cases h

/-- A run that halts made progress up to the failing call, and then raised its fatal fault. -/
theorem State.runSeq_fatal_raised {i : Instr} {ops : List MicroOp} {k : Nat} {s t : State}
    (h : State.runSeq i k ops s = .fatal t) : ∃ u p c, s.Progress u ∧ t = u.raiseFatal p c := by
  induction ops generalizing k s with
  | nil => cases h
  | cons op rest ih =>
    cases hd : (s.enter i k).doOp op with
    | done v u =>
      rw [State.runSeq_cons_done hd] at h
      obtain ⟨w, p, c, hw, rfl⟩ := ih h
      exact ⟨w, p, c, ((s.enter_progress i k).trans (State.doOp_progress hd)).trans hw, rfl⟩
    | fatal u =>
      rw [State.runSeq_cons_fatal hd] at h
      cases h
      obtain ⟨p, c, rfl⟩ := State.doOp_fatal hd
      exact ⟨_, p, c, (s.enter_progress i k).trans (State.regAct_progress _ op.act), rfl⟩

/-! ### Commands -/

/-- A well-formed command runs its micro-program. -/
theorem exec_wellFormed {i : Instr} (h : i.wellFormed = true) (s : State) :
    exec i s = s.runCommand i (program i) := by
  cases i with
  | segmap d pt =>
    have hm : segMask d pt ≠ none := by
      rw [← Option.isSome_iff_ne_none, segMask_isSome]
      exact h
    simp only [exec, execSegmap]
    split
    · contradiction
    · rfl
  | _ => rfl

/-- An ill-formed command, a SEGMAP above 9, is refused by an IDLE engine and by no other (log entry 20). -/
theorem exec_illFormed {i : Instr} (h : i.wellFormed = false) (s : State) :
    exec i s = if s.phase = .idle then .next s.refuse else s.runCommand i (program i) := by
  cases i with
  | segmap d pt =>
    have hm : segMask d pt = none := by
      rw [← Option.isNone_iff_eq_none, ← Option.not_isSome, segMask_isSome]
      simpa [Instr.wellFormed] using h
    cases hp : s.phase <;> simp [exec, execSegmap, hp, hm, program]
  | _ => cases h

/-- What a command that answers a next state did: it was refused as ill formed, it completed, or it halted. -/
theorem exec_cases {s t : State} {i : Instr} (h : exec i s = .next t) :
    s.phase = .idle ∧
      ((i.wellFormed = false ∧ t = s.refuse) ∨
       (∃ u, State.runSeq i 0 (program i) s = .done () u ∧ t = u.complete i) ∨
       State.runSeq i 0 (program i) s = .fatal t) := by
  cases hw : i.wellFormed with
  | true =>
    rw [exec_wellFormed hw] at h
    obtain ⟨hp, rfl⟩ := State.runCommand_next h
    refine ⟨hp, .inr ?_⟩
    unfold State.runProgram
    cases State.runSeq i 0 (program i) s <;> simp
  | false =>
    rw [exec_illFormed hw] at h
    split at h
    · exact ⟨‹_›, .inl ⟨rfl, by cases h; rfl⟩⟩
    · exact absurd (State.runCommand_next h).1 ‹_›

/-- An IDLE engine answers a next state to every command. -/
theorem exec_idle {s : State} (h : s.phase = .idle) (i : Instr) : ∃ t, exec i s = .next t := by
  cases hw : i.wellFormed with
  | true => exact ⟨_, by rw [exec_wellFormed hw, State.runCommand_idle h]⟩
  | false => exact ⟨_, by rw [exec_illFormed hw, if_pos h]⟩

/-- What a command does to the fault state, TRACE and the pins: progress to IDLE, or progress to a fatal fault. -/
theorem exec_progress {s t : State} {i : Instr} (h : exec i s = .next t) :
    (s.Progress t ∧ t.phase = .idle) ∨ ∃ u p c, s.Progress u ∧ t = u.raiseFatal p c := by
  obtain ⟨-, ⟨-, rfl⟩ | ⟨u, hu, rfl⟩ | hf⟩ := exec_cases h
  · exact .inl ⟨s.refuse_progress, rfl⟩
  · exact .inl ⟨(State.runSeq_done_progress hu).trans (u.complete_progress i), rfl⟩
  · exact .inr (State.runSeq_fatal_raised hf)

/-! ### Micro-steps -/

/-- A micro-step inside the program runs its primitive and advances, or raises the fatal fault of its call. -/
theorem State.microStep_cases {s : State} {i : Instr} {k : Nat} {op : MicroOp} (hop : (program i)[k]? = some op) :
    (∃ u, s.doPrim op.prim = .done () u ∧ s.microStep i k = u.advance i k) ∨
    (∃ p c, s.doPrim op.prim = .fatal (s.raiseFatal p c) ∧ s.microStep i k = s.raiseFatal p c) := by
  simp only [State.microStep, hop]
  cases hd : s.doPrim op.prim with
  | done v u => exact .inl ⟨u, rfl, rfl⟩
  | fatal u =>
    obtain ⟨p, c, rfl⟩ := State.doPrim_fatal hd
    exact .inr ⟨p, c, rfl, rfl⟩

/-- Where the engine goes after primitive k: over a hold whose condition is false, to the next primitive, or to the end. -/
theorem State.advance_cases (s : State) {i : Instr} {k : Nat} (hk : k < (program i).length) :
    ((program i)[k + 1]? = some ⟨.keep, .hold⟩ ∧ s.acked = false ∧ k + 2 < (program i).length ∧
      s.advance i k = s.arrive i (k + 2)) ∨
    (¬((program i)[k + 1]? = some ⟨.keep, .hold⟩ ∧ s.acked = false) ∧ k + 1 < (program i).length ∧
      s.advance i k = s.arrive i (k + 1)) ∨
    (k + 1 = (program i).length ∧ s.advance i k = s.complete i) := by
  unfold State.advance State.nextStep
  split
  next hs =>
    have hlt := hold_succ_lt hs.1
    exact .inl ⟨hs.1, hs.2, hlt, if_pos hlt⟩
  next hs =>
    split
    next hlt => exact .inr (.inl ⟨hs, hlt, rfl⟩)
    next hge => exact .inr (.inr ⟨by omega, rfl⟩)

theorem State.advance_progress (s : State) (i : Instr) (k : Nat) :
    s.Progress (s.advance i k) ∧ (s.advance i k).phase ≠ .halted := by
  unfold State.advance
  split
  · exact ⟨s.arrive_progress .., by simp⟩
  · exact ⟨s.complete_progress i, by simp⟩

theorem State.microStep_progress (s : State) (i : Instr) (k : Nat) :
    (s.Progress (s.microStep i k) ∧ (s.microStep i k).phase ≠ .halted) ∨
      ∃ u p c, s.Progress u ∧ s.microStep i k = u.raiseFatal p c := by
  cases hop : (program i)[k]? with
  | none =>
    have he : s.microStep i k = s.complete i := by simp [State.microStep, hop]
    rw [he]
    exact .inl ⟨s.complete_progress i, by simp⟩
  | some op =>
    obtain ⟨u, hu, he⟩ | ⟨p, c, -, he⟩ := State.microStep_cases (s := s) hop
    · obtain ⟨hp, hph⟩ := u.advance_progress i k
      exact .inl (he ▸ ⟨(State.doPrim_progress hu).trans hp, hph⟩)
    · exact .inr ⟨s, p, c, .refl s, he⟩

/-! ### Steps -/

/-- What a step that answers a next state did: an IDLE engine waited for a word, refused one or ran one's command; a BUSY
engine ran a micro-step. -/
theorem step_cases {s t : State} (h : step s = .next t) :
    (s.phase = .idle ∧ s.hostWords = [] ∧ t = s) ∨
    (s.phase = .idle ∧ ∃ w ws, s.hostWords = w :: ws ∧
      ((∃ r, decode w = .reject r ∧ t = { s with hostWords := ws }.refuse) ∨
       (∃ i, decode w = .instr i ∧ exec i { s with hostWords := ws } = .next t))) ∨
    (∃ i k, s.phase = .busy i k ∧ t = s.microStep i k) := by
  unfold step at h
  split at h
  next hp =>
    simp only [State.poll, State.fetch] at h
    cases hw : s.hostWords with
    | nil => exact .inl ⟨hp, rfl, by simpa [hw] using h.symm⟩
    | cons w ws =>
      refine .inr (.inl ⟨hp, w, ws, rfl, ?_⟩)
      simp only [hw, State.accept] at h
      split at h
      next i hd => exact .inr ⟨i, hd, h⟩
      next r hd => exact .inl ⟨r, hd, by cases h; rfl⟩
  next i k hp => exact .inr (.inr ⟨i, k, hp, by cases h; rfl⟩)
  next => cases h

/-- What a step does to the fault state, TRACE and the pins: progress, or progress to a fatal fault. -/
theorem step_progress {s t : State} (h : step s = .next t) :
    (s.Progress t ∧ t.phase ≠ .halted) ∨ ∃ u p c, s.Progress u ∧ t = u.raiseFatal p c := by
  have hfetch : ∀ ws, s.Progress { s with hostWords := ws } := fun _ => .of_eq rfl rfl rfl rfl rfl id
  obtain ⟨hp, -, rfl⟩ | ⟨-, w, ws, -, ⟨r, -, rfl⟩ | ⟨i, -, hx⟩⟩ | ⟨i, k, -, rfl⟩ := step_cases h
  · exact .inl ⟨.refl _, by simp [hp]⟩
  · exact .inl ⟨(hfetch ws).trans (State.refuse_progress _), by simp⟩
  · obtain ⟨hpr, hph⟩ | ⟨u, p, c, hu, rfl⟩ := exec_progress hx
    · exact .inl ⟨(hfetch ws).trans hpr, by simp [hph]⟩
    · exact .inr ⟨u, p, c, (hfetch ws).trans hu, rfl⟩
  · exact s.microStep_progress i k

end Sys2Proof.Machine
end

section
/-! PROOFS. The invariant of the fault state, the transient registers and the position, and that the transient registers
track the byte write. -/

namespace Sys2Proof.Machine

/-! ### The invariant -/

theorem callCode_ne_noFault (c : CallKind) : callCode c ≠ .noFault := by cases c <;> simp [callCode]

/-- The fatal fault establishes the invariant, whatever was before it. -/
theorem State.raiseFatal_inv (s : State) (p : Pin) (c : CallKind) : (s.raiseFatal p c).Inv where
  fatal_iff_halted := by simp
  fcode_iff := by simp [callCode_ne_noFault]
  diag_iff := by simp
  transient := by simp
  legal := by simp [Phase.legal]

/-- Progress that does not halt keeps the fault state of the invariant; the position and the transient registers are left
to show. -/
theorem State.Inv.of_progress {s t : State} (hs : s.Inv) (hn : s.phase ≠ .halted) (h : s.Progress t)
    (ht : t.phase ≠ .halted) (htr : (t.xfer.isSome = true ∨ t.rdv.isSome = true) → ∃ i k, t.phase = .busy i k)
    (hl : t.phase.legal) : t.Inv where
  fatal_iff_halted := by
    rw [h.fatal, hs.fatal_iff_halted]
    exact iff_of_false hn ht
  fcode_iff := by rw [h.fcode, h.fatal]; exact hs.fcode_iff
  diag_iff := by rw [h.diag, h.fatal]; exact hs.diag_iff
  transient := htr
  legal := hl

/-- A command that completes keeps the invariant. -/
theorem State.Inv.complete {s u : State} (hs : s.Inv) (hn : s.phase ≠ .halted) (h : s.Progress u) (i : Instr) :
    (u.complete i).Inv :=
  hs.of_progress hn (h.trans (u.complete_progress i)) (by simp) (by simp) (by simp [Phase.legal])

/-- Arriving at a position inside a well-formed command's program keeps the invariant. -/
theorem State.Inv.arrive {s u : State} {i : Instr} {k : Nat} (hs : s.Inv) (hn : s.phase ≠ .halted) (h : s.Progress u)
    (hw : i.wellFormed = true) (hk : k < (program i).length) : (u.arrive i k).Inv :=
  hs.of_progress hn (h.trans (u.arrive_progress i k)) (by simp) (fun _ => ⟨i, k, by simp⟩)
    (by simpa [Phase.legal] using ⟨hw, hk⟩)

/-- A refusal keeps the invariant of an IDLE engine. -/
theorem State.Inv.refuse {s : State} (hs : s.Inv) (hp : s.phase = .idle) : s.refuse.Inv :=
  hs.of_progress (by simp [hp]) s.refuse_progress (by simp) (by simpa [hp] using hs.transient) (by simp [Phase.legal])

theorem exec_keeps_inv {s t : State} {i : Instr} (hs : s.Inv) (h : exec i s = .next t) : t.Inv := by
  obtain ⟨hp, ⟨-, rfl⟩ | ⟨u, hu, rfl⟩ | hf⟩ := exec_cases h
  · exact hs.refuse hp
  · exact hs.complete (by simp [hp]) (State.runSeq_done_progress hu) i
  · obtain ⟨u, p, c, -, rfl⟩ := State.runSeq_fatal_raised hf
    exact u.raiseFatal_inv p c

theorem State.Inv.microStep {s : State} {i : Instr} {k : Nat} (hs : s.Inv) (hp : s.phase = .busy i k) :
    (s.microStep i k).Inv := by
  have hn : s.phase ≠ .halted := by simp [hp]
  obtain ⟨hw, hk⟩ : i.wellFormed = true ∧ k < (program i).length := by simpa [hp, Phase.legal] using hs.legal
  obtain ⟨u, hu, he⟩ | ⟨p, c, -, he⟩ := State.microStep_cases (s := s) (List.getElem?_eq_getElem hk) <;> rw [he]
  · have hpr := State.doPrim_progress hu
    obtain ⟨-, -, hlt, ha⟩ | ⟨-, hlt, ha⟩ | ⟨-, ha⟩ := u.advance_cases hk <;> rw [ha]
    · exact hs.arrive hn hpr hw hlt
    · exact hs.arrive hn hpr hw hlt
    · exact hs.complete hn hpr i
  · exact s.raiseFatal_inv p c

/-- Settles O46: a step waits, refuses, runs a command or a micro-step, and each keeps the invariant. -/
theorem everyStepKeepsTheInvariant : Obligations.EveryStepKeepsTheInvariant := by
  intro s t hs h
  have hfetch : ∀ ws, State.Inv { s with hostWords := ws } := fun _ =>
    ⟨hs.fatal_iff_halted, hs.fcode_iff, hs.diag_iff, hs.transient, hs.legal⟩
  obtain ⟨-, -, rfl⟩ | ⟨hp, w, ws, -, ⟨r, -, rfl⟩ | ⟨i, -, hx⟩⟩ | ⟨i, k, hp, rfl⟩ := step_cases h
  · exact hs
  · exact (hfetch ws).refuse hp
  · exact exec_keeps_inv (hfetch ws) hx
  · exact hs.microStep hp

/-- Settles O6: at launch there is no fault, no transient register and no position. -/
theorem everyLaunchSatisfiesTheInvariant : Obligations.EveryLaunchSatisfiesTheInvariant := by
  have hl : ∀ clk dio cs rs rv ws, (State.launch clk dio cs rs rv ws).Inv := fun clk dio cs rs rv ws =>
    { fatal_iff_halted := by simp [State.launch]
      fcode_iff := by simp [State.launch]
      diag_iff := by simp [State.launch]
      transient := by simp [State.launch]
      legal := by simp [State.launch, Phase.legal] }
  exact ⟨hl .., hl⟩

/-! ### The transient registers -/

/-- Inside a byte write the registers fit when they are those of its micro-step. -/
theorem State.xferFits_inside {s : State} {i : Instr} {k j : Nat} {b : Byte} (hp : s.phase = .busy i k)
    (hb : byteWriteAt i k = some (b, j)) :
    s.xferFits ↔
      ∃ x, s.xfer = some x ∧ x.sr = b ∧ x.bc.val = min (j / 5) 8 ∧ (x.ackv.isSome = true ↔ 45 < j) := by
  simp [State.xferFits, hp, hb]

/-- Outside every byte write the registers fit when none exists. -/
theorem State.xferFits_outside {s : State} (hp : ∀ i k, s.phase = .busy i k → byteWriteAt i k = none) :
    s.xferFits ↔ s.xfer = none := by
  unfold State.xferFits
  split
  next i k h => simp [hp i k h]
  · rfl
  · rfl

theorem State.xferFits_of_not_busy {s : State} (hx : s.xfer = none) (hp : ∀ i k, s.phase ≠ .busy i k) : s.xferFits :=
  (State.xferFits_outside fun i k h => absurd h (hp i k)).mpr hx

theorem State.complete_xferFits (s : State) (i : Instr) : (s.complete i).xferFits :=
  State.xferFits_of_not_busy rfl (by simp)

theorem State.raiseFatal_xferFits (s : State) (p : Pin) (c : CallKind) : (s.raiseFatal p c).xferFits :=
  State.xferFits_of_not_busy (by simp) (by simp)

theorem State.arrive_xfer {s : State} {i : Instr} {k : Nat} {op : MicroOp} (h : (program i)[k]? = some op) :
    (s.arrive i k).xfer = (s.regAct op.act).xfer := by
  rw [State.arrive_eq h]
  cases op.act <;> rfl

/-- Arriving outside the byte writes leaves no transient register, if there was none or the position drops them. -/
theorem State.arrive_xferFits_outside {s : State} {i : Instr} {k : Nat} (hb : byteWriteAt i k = none)
    (hx : s.xfer = none ∨ ∃ op, (program i)[k]? = some op ∧ op.act = .drop) : (s.arrive i k).xferFits := by
  refine (State.xferFits_outside (by simp [hb])).mpr ?_
  obtain hx | ⟨op, hop, ha⟩ := hx
  · cases hop : (program i)[k]? with
    | none => simpa [State.arrive, hop] using hx
    | some op => obtain ha | ha := (program_outside hb hop).2 <;> simp [State.arrive_xfer hop, ha, hx]
  · simp [State.arrive_xfer hop, ha]

/-- Arriving at micro-step 0 of a byte write loads its byte. -/
theorem State.arrive_xferFits_load (s : State) {i : Instr} {k : Nat} {b : Byte} (hb : byteWriteAt i k = some (b, 0)) :
    (s.arrive i k).xferFits := by
  have hop : (program i)[k]? = some ⟨.load b, .write .clk false⟩ := program_of_byteWriteAt hb
  exact (State.xferFits_inside (by simp) hb).mpr ⟨⟨b, 0, none⟩, by simp [State.arrive_xfer hop], rfl, rfl, by simp⟩

/-- Arriving at a later micro-step of a byte write brings BC up to the number of bits sent. -/
theorem State.arrive_xferFits_next {s : State} {i : Instr} {k j : Nat} {b : Byte} {x : Xfer}
    (hb : byteWriteAt i k = some (b, j + 1)) (hx : s.xfer = some x) (hsr : x.sr = b)
    (hbc : x.bc.val = min (j / 5) 8) (hack : x.ackv.isSome = true ↔ 45 < j + 1) : (s.arrive i k).xferFits := by
  have hj : j + 1 < (byteWriteOps b).length := byteWriteAt_lt hb
  have hop := List.getElem?_eq_getElem hj
  have hact := byteWriteOps_act hop
  rw [← program_of_byteWriteAt hb] at hop
  rw [State.xferFits_inside (by simp) hb, State.arrive_xfer hop, hact, byteWriteAct, if_neg (by omega)]
  split
  next hc =>
    refine ⟨{ x with bc := Fin.ofNat 9 ((j + 1) / 5) }, by simp [hx], hsr, ?_, hack⟩
    simp only [Fin.val_ofNat]
    omega
  next hc => exact ⟨x, by simp [hx], hsr, by omega, hack⟩

/-- A primitive of a byte write leaves SR and BC, and ACKV is present after it from the sample on (R101). -/
theorem State.doPrim_xfer_inside {s u : State} {i : Instr} {k j : Nat} {b : Byte} {op : MicroOp}
    (hs : s.xferFits) (hp : s.phase = .busy i k) (hb : byteWriteAt i k = some (b, j))
    (hop : (program i)[k]? = some op) (hu : s.doPrim op.prim = .done () u) :
    ∃ x, u.xfer = some x ∧ x.sr = b ∧ x.bc.val = min (j / 5) 8 ∧ (x.ackv.isSome = true ↔ 45 < j + 1) := by
  obtain ⟨x, hx, hsr, hbc, hack⟩ := (State.xferFits_inside hp hb).mp hs
  have hsample := byteWriteOps_sample_iff (program_of_byteWriteAt hb ▸ hop)
  obtain ⟨hpr, v, hv⟩ | ⟨hpr, hv⟩ := State.doPrim_xfer hu
  · have hj : j = 45 := hsample.mp hpr
    exact ⟨{ x with ackv := some v }, by simp [hv, hx], hsr, hbc, by simp [hj]⟩
  · have hj : j ≠ 45 := mt hsample.mpr hpr
    exact ⟨x, by rw [hv, hx], hsr, hbc, by rw [hack]; omega⟩

/-- Outside the byte writes a primitive creates no transient register. -/
theorem State.doPrim_xfer_none {s u : State} {pr : Prim} (hs : s.xfer = none) (hu : s.doPrim pr = .done () u) :
    u.xfer = none := by
  obtain ⟨-, v, hv⟩ | ⟨-, hv⟩ := State.doPrim_xfer hu <;> simp [hv, hs]

/-- From inside a byte write the registers fit on arrival at the next position: the next micro-step, the start of another
byte write, or what follows the last. -/
theorem State.arrive_succ_xferFits_inside {u : State} {i : Instr} {k j : Nat} {b : Byte} {x : Xfer}
    (hb : byteWriteAt i k = some (b, j)) (hx : u.xfer = some x) (hsr : x.sr = b) (hbc : x.bc.val = min (j / 5) 8)
    (hack : x.ackv.isSome = true ↔ 45 < j + 1) (hk : k + 1 < (program i).length) : (u.arrive i (k + 1)).xferFits := by
  cases hb' : byteWriteAt i (k + 1) with
  | none =>
    have hop := List.getElem?_eq_getElem hk
    exact State.arrive_xferFits_outside hb' (.inr ⟨_, hop, program_after_byteWrite hb hb' hop⟩)
  | some y =>
    obtain ⟨d, _ | l⟩ := y
    · exact u.arrive_xferFits_load hb'
    · have hprev := byteWriteAt_pred hb'
      rw [hb] at hprev
      cases hprev
      exact State.arrive_xferFits_next hb' hx hsr hbc hack

/-- From outside the byte writes the registers fit on arrival at the next position: outside, or at the start of one. -/
theorem State.arrive_succ_xferFits_outside {u : State} {i : Instr} {k : Nat} (hb : byteWriteAt i k = none)
    (hx : u.xfer = none) : (u.arrive i (k + 1)).xferFits := by
  cases hb' : byteWriteAt i (k + 1) with
  | none => exact State.arrive_xferFits_outside hb' (.inl hx)
  | some y =>
    obtain ⟨d, _ | l⟩ := y
    · exact u.arrive_xferFits_load hb'
    · rw [byteWriteAt_pred hb'] at hb
      cases hb

theorem State.microStep_xferFits {s : State} {i : Instr} {k : Nat} (hs : s.xferFits) (hp : s.phase = .busy i k) :
    (s.microStep i k).xferFits := by
  cases hop : (program i)[k]? with
  | none =>
    have he : s.microStep i k = s.complete i := by simp [State.microStep, hop]
    exact he ▸ s.complete_xferFits i
  | some op =>
    obtain ⟨u, hu, he⟩ | ⟨p, c, -, he⟩ := State.microStep_cases (s := s) hop <;> rw [he]
    · obtain ⟨hhold, -, hk, ha⟩ | ⟨-, hk, ha⟩ | ⟨-, ha⟩ := u.advance_cases (List.getElem?_eq_some_iff.mp hop).1 <;>
        rw [ha]
      · obtain ⟨b, hb⟩ := byteWriteAt_hold hhold
        obtain ⟨x, hx, hsr, hbc, hack⟩ := State.doPrim_xfer_inside hs hp (byteWriteAt_pred hb) hop hu
        exact State.arrive_xferFits_next (byteWriteAt_succ hb (by decide)) hx hsr hbc (by simpa using hack)
      · cases hb : byteWriteAt i k with
        | none =>
          have hx := (State.xferFits_outside fun i' k' h => by rw [hp] at h; cases h; exact hb).mp hs
          exact State.arrive_succ_xferFits_outside hb (State.doPrim_xfer_none hx hu)
        | some y =>
          obtain ⟨x, hx, hsr, hbc, hack⟩ := State.doPrim_xfer_inside hs hp hb hop hu
          exact State.arrive_succ_xferFits_inside hb hx hsr hbc hack hk
      · exact u.complete_xferFits i
    · exact s.raiseFatal_xferFits p c

theorem State.refuse_xferFits {s : State} (hs : s.xferFits) (hp : s.phase = .idle) : s.refuse.xferFits := by
  have hx : s.xfer = none := (State.xferFits_outside (by simp [hp])).mp hs
  exact State.xferFits_of_not_busy hx (by simp)

/-- No transient register outlives a command. -/
theorem exec_xferFits {s t : State} {i : Instr} (hs : s.xferFits) (h : exec i s = .next t) : t.xferFits := by
  obtain ⟨hp, ⟨-, rfl⟩ | ⟨u, -, rfl⟩ | hf⟩ := exec_cases h
  · exact State.refuse_xferFits hs hp
  · exact u.complete_xferFits i
  · obtain ⟨u, p, c, -, rfl⟩ := State.runSeq_fatal_raised hf
    exact u.raiseFatal_xferFits p c

/-- A command commences at micro-step 0 of a byte write, or outside. -/
theorem State.commence_xferFits {s : State} (i : Instr) (hs : s.xfer = none) : (s.commence i).xferFits := by
  unfold State.commence
  cases hb : byteWriteAt i 0 with
  | none => exact State.arrive_xferFits_outside hb (.inl hs)
  | some y =>
    obtain ⟨b, j⟩ := y
    obtain rfl := byteWriteAt_zero hb
    exact s.arrive_xferFits_load hb

/-- Settles O47: each micro-step arrives at a position whose registers fit, and nothing outlives a command. -/
theorem transientRegistersTrackTheByteWrite : Obligations.TransientRegistersTrackTheByteWrite := by
  refine ⟨fun _ _ _ _ _ _ => rfl, fun s t hs h => ?_, fun s i => s.commence_xferFits i⟩
  have hfetch : ∀ ws, State.xferFits { s with hostWords := ws } := fun _ => hs
  obtain ⟨-, -, rfl⟩ | ⟨hp, w, ws, -, ⟨r, -, rfl⟩ | ⟨i, -, hx⟩⟩ | ⟨i, k, hp, rfl⟩ := step_cases h
  · exact hs
  · exact State.refuse_xferFits (hfetch ws) hp
  · exact exec_xferFits (hfetch ws) hx
  · exact State.microStep_xferFits hs hp

end Sys2Proof.Machine
end

section
/-! PROOFS. What a step, and a command, leaves unchanged, and that a command run whole is its micro-steps. -/

namespace Sys2Proof.Machine

/-! ### Steps: TRACE, FATAL, REFUSED, EXP -/

/-- Settles O48: completed primitives append their events, and the fatal fault appends none. -/
theorem everyStepOnlyAppendsToTrace : Obligations.EveryStepOnlyAppendsToTrace := by
  intro s t h
  obtain ⟨hp, -⟩ | ⟨u, p, c, hp, rfl⟩ := step_progress h
  · obtain ⟨es, he, -⟩ := hp.events
    exact ⟨es, he.symm⟩
  · obtain ⟨es, he, -⟩ := hp.events
    exact ⟨es, by simp [he]⟩

/-- Settles O49: progress keeps FATAL and does not clear REFUSED, and the fatal fault sets FATAL and leaves REFUSED. -/
theorem fatalAndRefusedAreNeverCleared : Obligations.FatalAndRefusedAreNeverCleared := by
  intro s t h
  obtain ⟨hp, -⟩ | ⟨u, p, c, hp, rfl⟩ := step_progress h
  · exact ⟨fun hf => hp.fatal.trans hf, hp.refused⟩
  · exact ⟨fun _ => by simp, fun hr => by simpa using hp.refused hr⟩

theorem State.lines_pin (s : State) (p : Pin) : s.lines.pin p = s.pin p := by cases p <;> rfl

/-- No event clears EXP (R18). -/
theorem Lines.after_exp (x : Lines) (e : Event) {p : Pin} (h : (x.pin p).exp = true) :
    ((x.after e).pin p).exp = true := by
  cases e with
  | exported q => cases p <;> cases q <;> simp_all [Lines.after, Lines.update, Lines.pin]
  | dir q m => cases p <;> cases q <;> exact h
  | write q l => cases p <;> cases q <;> exact h
  | read q v => exact h
  | wait b => exact h

theorem Lines.foldl_after_exp (es : List Event) (x : Lines) {p : Pin} (h : (x.pin p).exp = true) :
    ((es.foldl Lines.after x).pin p).exp = true := by
  induction es generalizing x with
  | nil => exact h
  | cons e es ih => exact ih _ (x.after_exp e h)

/-- Settles O50: a step that does not halt changes the pins by its events only, and no event clears EXP. -/
theorem exportIsNeverUndone : Obligations.ExportIsNeverUndone := by
  intro s t p h hn he
  obtain ⟨hp, -⟩ | ⟨u, q, c, -, rfl⟩ := step_progress h
  · obtain ⟨es, -, hl⟩ := hp.events
    rw [← State.lines_pin, ← hl]
    exact Lines.foldl_after_exp es _ (by rwa [State.lines_pin])
  · exact absurd (by simp) hn

/-! ### Commands: completion, the host's side -/

/-- Settles O15: an IDLE engine answers every command, and ends IDLE or in the fatal fault. -/
theorem everyCommandCompletesOrHalts : Obligations.EveryCommandCompletesOrHalts := by
  intro s i hp
  obtain ⟨t, ht⟩ := exec_idle hp i
  refine ⟨t, ht, ?_⟩
  obtain ⟨-, hi⟩ | ⟨u, p, c, -, rfl⟩ := exec_progress ht
  · exact .inl hi
  · exact .inr (by simp)

/-- The primitives that can draw from the environment (R85). -/
def Prim.reads : Prim → Bool
  | .read _ => true
  | .sample => true
  | _ => false

theorem State.platformCall_reads (s : State) (p : Pin) (c : CallKind) (q : PinCfg) (e : Event) :
    (s.platformCall p c q e).state.reads = s.reads := by
  rcases s.platformCall_cases p c q e with ⟨_, h⟩ | ⟨_, h⟩ <;> rw [h] <;> simp [PrimResult.state]

/-- A primitive that is no read draws nothing. -/
theorem State.doPrim_reads (s : State) {pr : Prim} (h : pr.reads = false) : (s.doPrim pr).state.reads = s.reads := by
  cases pr with
  | exportPin p => exact s.platformCall_reads ..
  | setDir p m => exact s.platformCall_reads ..
  | write p l => exact s.platformCall_reads ..
  | writeBit => exact s.platformCall_reads ..
  | read p => cases h
  | sample => cases h
  | hold =>
    simp only [State.doPrim]
    split
    · exact s.platformCall_reads ..
    · rfl
  | wait t => rfl

/-- A run without reads draws nothing. -/
theorem State.runSeq_reads (i : Instr) {ops : List MicroOp} (h : ∀ op ∈ ops, op.prim.reads = false) (k : Nat)
    (s : State) : (State.runSeq i k ops s).state.reads = s.reads := by
  induction ops generalizing k s with
  | nil => rfl
  | cons op rest ih =>
    obtain ⟨hop, hrest⟩ := List.forall_mem_cons.mp h
    have hr : ((s.enter i k).doOp op).state.reads = s.reads := by
      simpa [State.doOp] using ((s.enter i k).regAct op.act).doPrim_reads hop
    cases hd : (s.enter i k).doOp op with
    | done v u => rw [State.runSeq_cons_done hd, ih hrest, ← hr, hd]; rfl
    | fatal u => rw [State.runSeq_cons_fatal hd, ← hr, hd]

/-- The commands other than PRD, WBYTE and DISP have no read in their programs. -/
theorem program_no_reads {i : Instr} (h : ∀ p b c m, i ≠ .prd p ∧ i ≠ .wbyte b ∧ i ≠ .disp c m) :
    ∀ op ∈ program i, op.prim.reads = false := by
  cases i with
  | prd p => exact absurd rfl (h p 0 0 0).1
  | wbyte b =>
    obtain ⟨-, hb, -⟩ := h .clk b 0 0
    exact absurd rfl hb
  | disp c m =>
    obtain ⟨-, -, hd⟩ := h .clk 0 c m
    exact absurd rfl hd
  | pexp p => simp [program, pexpOps, Prim.reads]
  | pdir p m => simp [program, pdirOps, Prim.reads]
  | pwr p l => simp [program, pwrOps, Prim.reads]
  | start => decide
  | stop => decide
  | segmap d pt => simp [program, segmapOps]

/-- Unless it is refused as ill formed, a command leaves the host's side, and draws from the environment what its run
draws. -/
theorem exec_sameHost {s t : State} {i : Instr} (h : exec i s = .next t) :
    (i.wellFormed = false ∧ t = s.refuse) ∨
    (t.refused = s.refused ∧ t.hostWords = s.hostWords ∧ t.callScript = s.callScript ∧ t.readScript = s.readScript ∧
      t.readValues = s.readValues ∧ t.reads = (State.runSeq i 0 (program i) s).state.reads) := by
  have hr := State.runSeq_sameHost i 0 (program i) s
  obtain ⟨-, hw | ⟨u, hu, rfl⟩ | hf⟩ := exec_cases h
  · exact .inl hw
  · rw [hu] at hr ⊢
    exact .inr ⟨hr.refused, hr.hostWords, hr.callScript, hr.readScript, hr.readValues, rfl⟩
  · rw [hf] at hr ⊢
    exact .inr ⟨hr.refused, hr.hostWords, hr.callScript, hr.readScript, hr.readValues, rfl⟩

/-- Settles O42: no primitive writes the host's side, and only reads draw from the environment. -/
theorem commandsLeaveTheHostSideAlone : Obligations.CommandsLeaveTheHostSideAlone := by
  intro s t i h
  obtain ⟨hw, rfl⟩ | ⟨hrf, hhw, hcs, hrs, hrv, hrd⟩ := exec_sameHost h
  · exact ⟨rfl, rfl, rfl, rfl, fun hw' => by simp [hw] at hw', fun _ => rfl⟩
  · exact ⟨hhw, hcs, hrs, hrv, fun _ => hrf, fun hi => hrd.trans (State.runSeq_reads i (program_no_reads hi) 0 s)⟩

/-! ### A micro-step, and the run of micro-steps -/

@[simp] theorem State.enter_acked (s : State) (i : Instr) (k : Nat) : (s.enter i k).acked = s.acked := rfl

/-- The registers a micro-step sets on arrival make no acknowledgment. -/
theorem State.regAct_acked_of_false {s : State} (h : s.acked = false) (a : RegAct) : (s.regAct a).acked = false := by
  cases a with
  | keep => exact h
  | load b => rfl
  | count n =>
    simp only [State.acked, State.ackv, State.regAct_count_xfer] at h ⊢
    cases hx : s.xfer <;> simp_all
  | drop => rfl

theorem State.arrive_acked_of_false {s : State} (h : s.acked = false) (i : Instr) (k : Nat) :
    (s.arrive i k).acked = false := by
  unfold State.arrive
  split
  next op _ => exact State.regAct_acked_of_false (s := s.enter i k) h op.act
  · exact h

/-- Settles O13: the primitive completes and the engine advances in one of three ways, or it halts. -/
theorem microStepAdvancesByOnePrimitive : Obligations.MicroStepAdvancesByOnePrimitive := by
  intro s i k hp hk
  refine ⟨s.microStep i k, by simp [step, hp], ?_⟩
  obtain ⟨u, -, he⟩ | ⟨p, c, -, he⟩ := State.microStep_cases (s := s) (List.getElem?_eq_getElem hk) <;> rw [he]
  · obtain ⟨hhold, hack, hlt, ha⟩ | ⟨hno, hlt, ha⟩ | ⟨hend, ha⟩ := u.advance_cases hk <;> rw [ha]
    · exact .inr (.inl ⟨by simp, hlt, State.arrive_acked_of_false hack i _, hhold⟩)
    · refine .inl ⟨by simp, hlt, fun hhold => ?_⟩
      have hack : u.acked = true := by simpa [hhold] using hno
      simpa [State.arrive_eq hhold] using hack
    · exact .inr (.inr (.inl ⟨by simp, hend⟩))
  · exact .inr (.inr (.inr (by simp)))

/-- The state a run of a command's primitives leads to: the command completes, unless it halted. -/
def PrimResult.finish (i : Instr) : PrimResult Unit → State
  | .done _ s => s.complete i
  | .fatal s => s

theorem State.runProgram_eq_finish (s : State) (i : Instr) (ops : List MicroOp) :
    s.runProgram i ops = (State.runSeq i 0 ops s).finish i := by
  unfold State.runProgram
  cases State.runSeq i 0 ops s <;> rfl

theorem State.microRun_of_not_busy {s : State} (h : ∀ i k, s.phase ≠ .busy i k) (n : Nat) : s.microRun n = s := by
  cases n with
  | zero => rfl
  | succ n =>
    unfold State.microRun
    split
    next i k hp => exact absurd hp (h i k)
    · rfl
    · rfl

theorem State.microRun_succ_of_busy {s : State} {i : Instr} {k : Nat} (h : s.phase = .busy i k) (n : Nat) :
    s.microRun (n + 1) = (s.microStep i k).microRun n := by
  simp [State.microRun, h]

theorem State.enter_arrive (s : State) (i : Instr) (j k : Nat) : (s.enter i j).arrive i k = s.arrive i k := by
  unfold State.arrive
  split <;> rfl

theorem State.enter_complete (s : State) (i : Instr) (k : Nat) : (s.enter i k).complete i = s.complete i := by
  cases i <;> rfl

/-- A hold whose condition is false is run by doing nothing (R104). -/
theorem State.doOp_hold_skipped {s : State} (h : s.acked = false) (i : Instr) (k : Nat) :
    (s.enter i k).doOp ⟨.keep, .hold⟩ = .done () (s.enter i k) := by
  simp [State.doOp, State.doPrim, h]

theorem State.microStep_arrive_done {s u : State} {i : Instr} {k : Nat} {op : MicroOp} (hop : (program i)[k]? = some op)
    (hd : (s.enter i k).doOp op = .done () u) : (s.arrive i k).microStep i k = u.advance i k := by
  simp [State.microStep, hop, State.arrive_doPrim hop, hd]

theorem State.microStep_arrive_fatal {s u : State} {i : Instr} {k : Nat} {op : MicroOp} (hop : (program i)[k]? = some op)
    (hd : (s.enter i k).doOp op = .fatal u) : (s.arrive i k).microStep i k = u := by
  simp [State.microStep, hop, State.arrive_doPrim hop, hd]

/-- Running micro-steps from position k is running the rest of the program from there, if the fuel reaches its end. -/
theorem State.microRun_arrive (i : Instr) (n : Nat) {k : Nat} (s : State) (hk : k < (program i).length)
    (hn : (program i).length ≤ k + n) :
    (s.arrive i k).microRun n = (State.runSeq i k ((program i).drop k) s).finish i := by
  induction n generalizing k s with
  | zero => omega
  | succ n ih =>
    have hop := List.getElem?_eq_getElem hk
    rw [State.microRun_succ_of_busy (s.arrive_phase i k), List.drop_eq_getElem_cons hk]
    cases hd : (s.enter i k).doOp (program i)[k] with
    | fatal u =>
      obtain ⟨p, c, rfl⟩ := State.doOp_fatal hd
      rw [State.runSeq_cons_fatal hd, State.microStep_arrive_fatal hop hd]
      exact State.microRun_of_not_busy (by simp) n
    | done v u =>
      rw [State.runSeq_cons_done hd, State.microStep_arrive_done hop hd]
      obtain ⟨hhold, hack, hlt, ha⟩ | ⟨-, hlt, ha⟩ | ⟨hend, ha⟩ := u.advance_cases hk
      · obtain ⟨hlt', hget⟩ := List.getElem?_eq_some_iff.mp hhold
        rw [ha, List.drop_eq_getElem_cons hlt', hget, State.runSeq_cons_done (State.doOp_hold_skipped hack i (k + 1)),
          ← u.enter_arrive i (k + 1), ih _ hlt (by omega)]
      · rw [ha, ih u hlt (by omega)]
      · rw [ha, hend, List.drop_length]
        exact State.microRun_of_not_busy (by simp) n

/-- An empty program, SEGMAP's, completes in one micro-step. -/
theorem State.microRun_commence_of_nil {i : Instr} (h : program i = []) (s : State) (n : Nat) :
    (s.commence i).microRun (n + 1) = s.complete i := by
  have hc : s.commence i = s.enter i 0 := by simp [State.commence, State.arrive, h]
  have hm : (s.enter i 0).microStep i 0 = s.complete i := by simp [State.microStep, h, State.enter_complete]
  rw [hc, State.microRun_succ_of_busy rfl, hm]
  exact State.microRun_of_not_busy (by simp) n

/-- Settles O14: from BUSY(i, 0) the micro-steps run the whole program, as exec does. -/
theorem commandIsItsMicroSteps : Obligations.CommandIsItsMicroSteps := by
  intro s i hp hw
  rw [exec_wellFormed hw, State.runCommand_idle hp, State.runProgram_eq_finish]
  congr 1
  rcases Nat.eq_zero_or_pos (program i).length with h0 | hpos
  · have hnil := List.eq_nil_of_length_eq_zero h0
    rw [State.microRun_commence_of_nil hnil, hnil]
    rfl
  · exact (State.microRun_arrive i _ s hpos (by omega)).symm

/-! ### The step, the pins -/

/-- Settles O8: the step of an IDLE engine takes the word and runs what it decodes to. -/
theorem stepRunsTheDecodedCommand : Obligations.StepRunsTheDecodedCommand := by
  intro s w ws i hp hw hd
  simp [step, hp, State.poll, State.fetch, hw, State.accept, hd]

/-- Settles O7: DIO_PIN is moved off CLK_PIN where they would be equal. -/
theorem pinIdentifiersAreDistinct : Obligations.PinIdentifiersAreDistinct := by
  refine ⟨rfl, rfl, ?_⟩
  unfold Config.dioPin
  split
  next h => omega
  next h => exact fun he => h he.symm

end Sys2Proof.Machine
end

section
/-! PROOFS. TRACE accounts for the pins in every step (R47, R81, R160). -/

namespace Sys2Proof.Machine

/-- The fatal fault leaves the pin its call did not name as the events made before the call left it (R80, R160). -/
theorem State.Progress.raiseFatal_pin_other {s u : State} (h : s.Progress u) (p : Pin) (c : CallKind) :
    ∃ es, (u.raiseFatal p c).trace = s.trace ++ es ∧
      ∀ r, r ≠ p → (u.raiseFatal p c).pin r = (es.foldl Lines.after s.lines).pin r := by
  obtain ⟨es, htr, hl⟩ := h.events
  exact ⟨es, by rw [State.raiseFatal_trace, htr],
    fun r hr => by rw [State.raiseFatal_pin_other u c hr, hl, State.lines_pin]⟩

/-- Settles O51: progress makes the events that account for the pins, and the fatal fault after it spoils the named pin
only. -/
theorem traceAccountsForThePins : Obligations.TraceAccountsForThePins := by
  intro s t h
  obtain ⟨hp, hn⟩ | ⟨u, p, c, hp, rfl⟩ := step_progress h
  · exact ⟨fun _ => hp.events, fun hh => absurd hh hn⟩
  · obtain ⟨es, htr, hpin⟩ := hp.raiseFatal_pin_other p c
    exact ⟨fun hh => absurd (by simp) hh, fun _ => ⟨es, p, c, htr, by simp, by simp, hpin⟩⟩

end Sys2Proof.Machine
end

section
/-! PROOFS. The decoder by the fields of the word (R57 to R66, R76): the fields of a command's row, which hold exactly of the
command's own word; the masks of the opcode map and the words that name no command are read off them. -/

namespace Sys2Proof

/-! ### Fields and masks of a word -/

theorem getLsbD_eq_iff (w : Word) (k : Nat) (l : Bool) : w.getLsbD k = l ↔ w.toNat / 2 ^ k % 2 = l.toNat := by
  rw [BitVec.getLsbD, Nat.testBit_eq_decide_div_mod_eq]
  cases l <;> simp

/-- A mask of l ones from bit s on compares the field of those bits. -/
theorem and_mask_eq_iff {w v mask : Word} (s l : Nat) (hm : mask = (BitVec.allOnes l).setWidth 16 <<< s)
    (hv : v &&& mask = v) : w &&& mask = v ↔ w.extractLsb' s l = v.extractLsb' s l := by
  have hbit : ∀ k, mask.getLsbD k = decide (k < 16 ∧ s ≤ k ∧ k < s + l) := by
    intro k
    simp only [hm, BitVec.getLsbD_shiftLeft, BitVec.getLsbD_setWidth, BitVec.getLsbD_allOnes]
    grind
  constructor
  · intro h
    rw [← h]
    ext k hk
    simp only [BitVec.getElem_extractLsb', BitVec.getLsbD_and, hbit]
    grind
  · intro h
    rw [← hv]
    refine BitVec.eq_of_getLsbD_eq fun k hk => ?_
    have hf : (w.extractLsb' s l).getLsbD (k - s) = (v.extractLsb' s l).getLsbD (k - s) := by rw [h]
    simp only [BitVec.getLsbD_extractLsb'] at hf
    simp only [BitVec.getLsbD_and, hbit]
    grind

/-- The digit field of a SEGMAP word (R64). -/
theorem toNat_and_digitMask (w : Word) : (w &&& 0x000F).toNat = (w.extractLsb' 0 4).toNat := by
  rw [BitVec.extractLsb'_toNat, BitVec.toNat_and]
  simpa using Nat.and_two_pow_sub_one_eq_mod w.toNat 4

/-! ### The fields the decoder reads -/

/-- The word has the fields of command i: its opcode, 0 in the bits its format marks 0, and its operands (R58 to R64, R66). -/
def HasFieldsOf (w : Word) : Instr → Prop
  | .pexp p => opcodeOf w = 1 ∧ w.extractLsb' 1 11 = 0 ∧ pinOf w = p
  | .pdir p m => opcodeOf w = 2 ∧ w.extractLsb' 2 10 = 0 ∧ pinOf w = p ∧ dirOf w = m
  | .pwr p l => opcodeOf w = 3 ∧ w.extractLsb' 2 10 = 0 ∧ pinOf w = p ∧ w.getLsbD 1 = l
  | .prd p => opcodeOf w = 4 ∧ w.extractLsb' 1 11 = 0 ∧ pinOf w = p
  | .start => opcodeOf w = 5 ∧ w.extractLsb' 0 12 = 0
  | .stop => opcodeOf w = 6 ∧ w.extractLsb' 0 12 = 0
  | .wbyte b => opcodeOf w = 7 ∧ w.extractLsb' 8 4 = 0 ∧ w.extractLsb' 0 8 = b
  | .disp c m => opcodeOf w = 8 ∧ w.extractLsb' 10 2 = 0 ∧ w.extractLsb' 8 2 = c ∧ w.extractLsb' 0 8 = m
  | .segmap d pt =>
    opcodeOf w = 9 ∧ w.extractLsb' 5 7 = 0 ∧ (w.extractLsb' 0 4).toNat ≤ 9 ∧ w.extractLsb' 0 4 = d ∧ w.getLsbD 4 = pt

theorem checked_eq_instr {z : Bool} {i j : Instr} (h : checked z j = .instr i) : z = true ∧ j = i := by
  cases z <;> simp_all [checked]

/-- In each branch that answers a command the decoder has checked the command's fields. -/
theorem hasFieldsOf_of_decode {w : Word} {i : Instr} (h : decode w = .instr i) : HasFieldsOf w i := by
  unfold decode at h
  split at h
  case h_9 h9 =>
    split at h
    next hz =>
      split at h
      next hd =>
        cases h
        exact ⟨BitVec.eq_of_toNat_eq h9, by simpa using hz, hd, rfl, rfl⟩
      · cases h
    · cases h
  case h_10 => cases h
  all_goals
    obtain ⟨hz, rfl⟩ := checked_eq_instr h
    simp_all [HasFieldsOf, ← BitVec.toNat_inj]

/-- The decoder's checks on a word with a command's fields succeed. -/
theorem decode_of_hasFieldsOf {w : Word} {i : Instr} (h : HasFieldsOf w i) : decode w = .instr i := by
  cases i with
  | segmap d pt =>
    obtain ⟨hop, hz, hd, rfl, rfl⟩ := h
    simp only [decode, hop, hz, if_pos hd]
    rfl
  | _ => simp_all [HasFieldsOf, decode, checked]

/-- The decoder answers a command exactly for the words with its fields (R76). -/
theorem decode_eq_instr_iff {w : Word} {i : Instr} : decode w = .instr i ↔ HasFieldsOf w i :=
  ⟨hasFieldsOf_of_decode, decode_of_hasFieldsOf⟩

/-! ### The number of a command's word -/

/-- The sum of the word's fields, each at its place (R66). -/
def Instr.wordNumber : Instr → Nat
  | .pexp p => 0x1000 + (pinBits p).toNat
  | .pdir p m => 0x2000 + (dirBits m).toNat + (pinBits p).toNat
  | .pwr p l => 0x3000 + (levelBits l).toNat + (pinBits p).toNat
  | .prd p => 0x4000 + (pinBits p).toNat
  | .start => 0x5000
  | .stop => 0x6000
  | .wbyte b => 0x7000 + b.toNat
  | .disp c m => 0x8000 + 0x100 * c.toNat + m.toNat
  | .segmap d pt => 0x9000 + 0x10 * pt.toNat + d.toNat

/-- An OR of fields adds their numbers where x is a multiple of 2^k and y lies below it. -/
theorem toNat_or_of_lt {x y : Word} (k a : Nat) (hx : x.toNat = 2 ^ k * a) (hy : y.toNat < 2 ^ k) :
    (x ||| y).toNat = x.toNat + y.toNat := by
  rw [BitVec.toNat_or, hx, Nat.two_pow_add_eq_or_of_lt hy]

theorem toNat_encode (i : Instr) : (encode i).toNat = i.wordNumber := by
  have hwide : ∀ {n : Nat} (x : BitVec n), n ≤ 16 → (x.setWidth 16).toNat = x.toNat := fun _ =>
    BitVec.toNat_setWidth_of_le
  cases i with
  | pexp p => cases p <;> rfl
  | pdir p m => cases p <;> cases m <;> rfl
  | pwr p l => cases p <;> cases l <;> rfl
  | prd p => cases p <;> rfl
  | start => rfl
  | stop => rfl
  | wbyte b =>
    have hb := hwide b (by decide)
    rw [encode, toNat_or_of_lt 8 0x70 rfl (by omega), hb]
    rfl
  | disp c m =>
    have hm := hwide m (by decide)
    have hc : (c.setWidth 16 <<< 8).toNat = 0x100 * c.toNat := by
      rw [BitVec.toNat_shiftLeft, hwide c (by decide), Nat.shiftLeft_eq]
      omega
    have hcm : (0x8000#16 ||| c.setWidth 16 <<< 8).toNat = 0x8000 + 0x100 * c.toNat := by
      rw [toNat_or_of_lt 10 0x20 rfl (by omega), hc]
      rfl
    change (0x8000#16 ||| c.setWidth 16 <<< 8 ||| m.setWidth 16).toNat = _
    rw [toNat_or_of_lt 8 (0x80 + c.toNat) (hcm.trans (by omega)) (by omega), hcm, hm]
    rfl
  | segmap d pt =>
    have hd := hwide d (by decide)
    have hpt : (0x9000#16 ||| (BitVec.ofBool pt).setWidth 16 <<< 4).toNat = 0x9000 + 0x10 * pt.toNat := by
      cases pt <;> rfl
    change (0x9000#16 ||| (BitVec.ofBool pt).setWidth 16 <<< 4 ||| d.setWidth 16).toNat = _
    rw [toNat_or_of_lt 4 (0x900 + pt.toNat) (hpt.trans (by omega)) (by omega), hpt, hd]
    rfl

theorem pinOf_eq_iff (w : Word) (p : Pin) : pinOf w = p ↔ w.toNat % 2 = (pinBits p).toNat := by
  unfold pinOf
  cases hb : w.getLsbD 0 <;> rw [getLsbD_eq_iff] at hb <;> cases p <;> simp_all [pinBits]

theorem dirOf_eq_iff (w : Word) (m : Dir) : dirOf w = m ↔ 2 * (w.toNat / 2 % 2) = (dirBits m).toNat := by
  unfold dirOf
  cases hb : w.getLsbD 1 <;> rw [getLsbD_eq_iff] at hb <;> cases m <;> simp_all [dirBits]

theorem toNat_pinBits_lt (p : Pin) : (pinBits p).toNat < 2 := by cases p <;> decide
theorem toNat_dirBits (m : Dir) : (dirBits m).toNat = 0 ∨ (dirBits m).toNat = 2 := by cases m <;> decide
theorem toNat_levelBits (l : Level) : (levelBits l).toNat = 2 * l.toNat := by cases l <;> rfl

/-- A word has the fields of a command when it is the sum of those fields, and the command is well formed. -/
theorem hasFieldsOf_iff_wordNumber (w : Word) (i : Instr) :
    HasFieldsOf w i ↔ w.toNat = i.wordNumber ∧ i.wellFormed = true := by
  have hw := w.isLt
  cases i <;> simp only [HasFieldsOf, Instr.wordNumber, Instr.wellFormed, opcodeOf, ← BitVec.toNat_inj,
    BitVec.extractLsb'_toNat, Nat.shiftRight_eq_div_pow, BitVec.ofNat_eq_ofNat, BitVec.toNat_ofNat, pinOf_eq_iff,
    dirOf_eq_iff, getLsbD_eq_iff, decide_eq_true_eq, and_true]
  case pexp p | prd p =>
    have hp := toNat_pinBits_lt p
    omega
  case pdir p m =>
    have hp := toNat_pinBits_lt p
    have hm := toNat_dirBits m
    omega
  case pwr p l =>
    have hp := toNat_pinBits_lt p
    have hl := Bool.toNat_lt l
    rw [toNat_levelBits]
    omega
  case start | stop => omega
  case wbyte b => omega
  case disp c m => omega
  case segmap d pt =>
    have hpt := Bool.toNat_lt pt
    omega

/-- The words with the fields of a command are its one word (R70). -/
theorem hasFieldsOf_iff (w : Word) (i : Instr) : HasFieldsOf w i ↔ encode i = w ∧ i.wellFormed = true := by
  rw [hasFieldsOf_iff_wordNumber, ← toNat_encode, BitVec.toNat_inj, eq_comm]

/-! ### The round trip -/

/-- Settles O2: a well-formed command's word has its fields. -/
theorem decodeOfEncodeIsTheCommand : Obligations.DecodeOfEncodeIsTheCommand := fun i h =>
  decode_eq_instr_iff.mpr ((hasFieldsOf_iff _ i).mpr ⟨rfl, h⟩)

/-- Settles O3: a word with the fields of a command is that command's. -/
theorem decodedWordIsTheEncoding : Obligations.DecodedWordIsTheEncoding := fun w i h =>
  (hasFieldsOf_iff w i).mp (decode_eq_instr_iff.mp h)

/-! ### The opcode map -/

/-- Adjacent fields agree together when each agrees. -/
theorem extractLsb'_add_eq_iff {w v : Word} (s a b : Nat) :
    w.extractLsb' s (a + b) = v.extractLsb' s (a + b) ↔
      w.extractLsb' (s + b) a = v.extractLsb' (s + b) a ∧ w.extractLsb' s b = v.extractLsb' s b := by
  rw [← BitVec.extractLsb'_append_extractLsb'_eq_extractLsb' rfl,
    ← BitVec.extractLsb'_append_extractLsb'_eq_extractLsb' rfl]
  constructor
  · intro h
    have hl := congrArg (BitVec.extractLsb' b a) h
    have hr := congrArg (BitVec.extractLsb' 0 b) h
    rw [BitVec.extractLsb'_append_eq_left, BitVec.extractLsb'_append_eq_left] at hl
    rw [BitVec.extractLsb'_append_eq_right, BitVec.extractLsb'_append_eq_right] at hr
    exact ⟨hl, hr⟩
  · rintro ⟨hl, hr⟩
    rw [hl, hr]

/-- A row of the opcode map compares the opcode and the bits the format marks 0 (R66). -/
theorem and_rowMask_eq_iff {w v mask : Word} (s z : Nat) {op : BitVec 4}
    (hm : mask = (BitVec.allOnes (4 + z)).setWidth 16 <<< s := by rfl) (hv : v &&& mask = v := by rfl)
    (hs : s + z = 12 := by rfl) (hop : opcodeOf v = op := by rfl) (hz : v.extractLsb' s z = 0 := by rfl) :
    w &&& mask = v ↔ opcodeOf w = op ∧ w.extractLsb' s z = 0 := by
  rw [and_mask_eq_iff s (4 + z) hm hv, extractLsb'_add_eq_iff, hs, ← hop, ← hz]
  rfl

/-- Settles O4: over all operands, the fields of a row's commands are what its mask and match compare. -/
theorem decodeFollowsTheOpcodeMap : Obligations.DecodeFollowsTheOpcodeMap := by
  intro w
  simp only [decode_eq_instr_iff, HasFieldsOf, exists_and_left, exists_eq', and_true, toNat_and_digitMask]
  refine ⟨and_rowMask_eq_iff 1 11, and_rowMask_eq_iff 2 10, and_rowMask_eq_iff 2 10, and_rowMask_eq_iff 1 11,
    and_rowMask_eq_iff 0 12, and_rowMask_eq_iff 0 12, and_rowMask_eq_iff 8 4, and_rowMask_eq_iff 10 2, ?_⟩
  rw [and_rowMask_eq_iff 5 7 (op := 9), and_assoc]

end Sys2Proof

namespace Sys2Proof.Machine

/-! ### Words that name no command -/

/-- A mask of bits that must be zero finds a 1 exactly where their field is not 0 (R68). -/
theorem and_mask_ne_zero_iff {w mask : Word} (s l : Nat)
    (hm : mask = (BitVec.allOnes l).setWidth 16 <<< s := by rfl) : w &&& mask ≠ 0 ↔ w.extractLsb' s l ≠ 0 := by
  have hz : (0 : Word).extractLsb' s l = 0 := BitVec.extractLsb'_zero
  rw [Ne, and_mask_eq_iff s l hm (by simp), hz]

/-- `namesNoCommand` on the fields the decoder reads. -/
theorem namesNoCommand_iff (w : Word) :
    namesNoCommand w ↔
      (opcodeOf w = 0 ∨ 0xA ≤ (opcodeOf w).toNat) ∨
      ((opcodeOf w = 1 ∨ opcodeOf w = 4) ∧ w.extractLsb' 1 11 ≠ 0) ∨
      ((opcodeOf w = 2 ∨ opcodeOf w = 3) ∧ w.extractLsb' 2 10 ≠ 0) ∨
      ((opcodeOf w = 5 ∨ opcodeOf w = 6) ∧ w.extractLsb' 0 12 ≠ 0) ∨
      (opcodeOf w = 7 ∧ w.extractLsb' 8 4 ≠ 0) ∨
      (opcodeOf w = 8 ∧ w.extractLsb' 10 2 ≠ 0) ∨
      (opcodeOf w = 9 ∧ w.extractLsb' 5 7 ≠ 0) ∨
      (opcodeOf w = 9 ∧ 9 < (w.extractLsb' 0 4).toNat) := by
  rw [← and_mask_ne_zero_iff (mask := 0x0FFE) 1 11, ← and_mask_ne_zero_iff (mask := 0x0FFC) 2 10,
    ← and_mask_ne_zero_iff (mask := 0x0FFF) 0 12, ← and_mask_ne_zero_iff (mask := 0x0F00) 8 4,
    ← and_mask_ne_zero_iff (mask := 0x0C00) 10 2, ← and_mask_ne_zero_iff (mask := 0x0FE0) 5 7, ← toNat_and_digitMask]
  rfl

/-- A command's fields contradict every way of naming none. -/
theorem not_hasFieldsOf_of_namesNoCommand {w : Word} (h : namesNoCommand w) (i : Instr) : ¬HasFieldsOf w i := by
  rw [namesNoCommand_iff] at h
  intro hi
  cases i with
  | segmap d pt =>
    obtain ⟨hop, hz, hd, -, -⟩ := hi
    simp only [hop, hz] at h
    grind
  | _ => simp_all [HasFieldsOf]

/-- Settles O9: the decoder rejects such a word, and the step refuses it. -/
theorem refusedWordOnlySetsRefused : Obligations.RefusedWordOnlySetsRefused := by
  intro s w ws hp hw hn
  cases hd : decode w with
  | instr i => exact absurd (decode_eq_instr_iff.mp hd) (not_hasFieldsOf_of_namesNoCommand hn i)
  | reject r => simp [step, hp, State.poll, State.fetch, hw, State.accept, hd, State.refuse]

end Sys2Proof.Machine
end

section
/-! PROOFS. The reply of a command (R75): PRD's value and WBYTE's sample are there when the command completes. -/

namespace Sys2Proof.Machine

/-- A run that completes completed its first micro-step and then the rest. -/
theorem State.runSeq_cons_inv {i : Instr} {k : Nat} {op : MicroOp} {rest : List MicroOp} {s u : State}
    (h : State.runSeq i k (op :: rest) s = .done () u) :
    ∃ t, (s.enter i k).doOp op = .done () t ∧ State.runSeq i (k + 1) rest t = .done () u := by
  cases hd : (s.enter i k).doOp op with
  | done v t => exact ⟨t, rfl, State.runSeq_cons_done hd ▸ h⟩
  | fatal t =>
    rw [State.runSeq_cons_fatal hd] at h
    cases h

theorem State.doPrim_read_rdv {s u : State} {p : Pin} (h : s.doPrim (.read p) = .done () u) : ∃ v, u.rdv = some v := by
  simp only [State.doPrim] at h
  split at h <;> cases h
  exact ⟨_, rfl⟩

/-- A PRD that completes has read its value (R91). -/
theorem State.runSeq_prd_rdv {p : Pin} {s u : State} (h : State.runSeq (.prd p) 0 (program (.prd p)) s = .done () u) :
    ∃ v, u.rdv = some v := by
  obtain ⟨t, ht, hu⟩ := State.runSeq_cons_inv h
  cases hu
  exact State.doPrim_read_rdv ht

/-- A byte write that completes, from a micro-step its transient registers fit on, has sampled (R94, R101). -/
theorem State.runSeq_wbyte_ackv {b : Byte} {k : Nat} (hk : k < 50) {s u : State} (hs : (s.arrive (.wbyte b) k).xferFits)
    (h : State.runSeq (.wbyte b) k ((program (.wbyte b)).drop k) s = .done () u) : ∃ v, u.ackv = some v := by
  have hlen : k < (program (.wbyte b)).length := hk
  have hop := List.getElem?_eq_getElem hlen
  rw [List.drop_eq_getElem_cons hlen] at h
  obtain ⟨t, ht, hu⟩ := State.runSeq_cons_inv h
  rw [← State.arrive_doPrim hop] at ht
  obtain ⟨x, hx, hsr, hbc, hack⟩ := State.doPrim_xfer_inside hs (s.arrive_phase _ k) (if_pos hk) hop ht
  rcases Nat.lt_or_ge (k + 1) 50 with hk' | hk'
  · exact State.runSeq_wbyte_ackv hk' (State.arrive_xferFits_next (if_pos hk') hx hsr hbc hack) hu
  · obtain rfl : k = 49 := by omega
    cases hu
    simpa [State.ackv, hx, Option.isSome_iff_exists] using hack
termination_by 50 - k

/-- What the reply of a command is (R75): its kind, and a SEGMAP's mask. -/
def Reply.fits (r : Reply) : Instr → Prop
  | .wbyte _ => ∃ v, r = .ack v
  | .prd _ => ∃ v, r = .level v
  | .segmap d pt => ∃ m, segMask d pt = some m ∧ r = .mask m
  | _ => r = .noValue

/-- A command whose micro-program completed has its reply ready. -/
theorem State.replyFor_of_completed {s u : State} {i : Instr} (hw : i.wellFormed = true)
    (h : State.runSeq i 0 (program i) s = .done () u) : ∃ r, u.replyFor i = some r ∧ r.fits i := by
  cases i with
  | prd p =>
    obtain ⟨v, hv⟩ := State.runSeq_prd_rdv h
    exact ⟨.level v, by simp [State.replyFor, hv], v, rfl⟩
  | wbyte b =>
    obtain ⟨v, hv⟩ := State.runSeq_wbyte_ackv (by decide) (s.arrive_xferFits_load rfl) h
    exact ⟨.ack v, by simp [State.replyFor, hv], v, rfl⟩
  | segmap d pt =>
    obtain ⟨m, hm⟩ := Option.isSome_iff_exists.mp ((segMask_isSome d pt).trans hw)
    exact ⟨.mask m, by simp [State.replyFor, hm], m, hm, rfl⟩
  | _ => exact ⟨.noValue, rfl, rfl⟩

/-- Settles O55: a command that completes appends the reply it has ready, and no primitive hands one over. -/
theorem everyCommandRepliesOnce : Obligations.EveryCommandRepliesOnce := by
  intro s t i hw h
  have hsame := State.runSeq_sameHost i 0 (program i) s
  obtain ⟨-, ⟨hill, -⟩ | ⟨u, hu, rfl⟩ | hf⟩ := exec_cases h
  · simp [hw] at hill
  · rw [hu] at hsame
    obtain ⟨r, hr, hfits⟩ := State.replyFor_of_completed hw hu
    refine ⟨by simp, fun _ => ⟨r, ?_, ?_⟩⟩
    · have hsr : u.replies = s.replies := hsame.replies
      simp [hr, hsr]
    · cases i <;> exact hfits
  · rw [hf] at hsame
    have hhalted := (State.runSeq_fatal_halted hf).1
    exact ⟨fun _ => hsame.replies, fun hidle => by simp [hhalted] at hidle⟩

end Sys2Proof.Machine
end

section
/-! PROOFS. The words of the reference host (R72, R147). -/

namespace Sys2Proof.Machine

/-- A `ddig` line is a SEGMAP and the DISP of the mask it replies (R72). -/
theorem ddig_words {c : BitVec 2} {d : BitVec 4} {pt : Bool} {m : Byte} (h : segMask d pt = some m) :
    (AsmLine.ddig c d pt).expand.map encode = [encode (.segmap d pt), encode (.disp c m)] := by
  simp [AsmLine.expand, h]

theorem encode_segmap (d : BitVec 4) (pt : Bool) :
    encode (.segmap d pt) = (if pt then 0x9010 else 0x9000) ||| d.setWidth 16 := by
  cases pt <;> rfl

/-- A digit 0 to 9 as a SEGMAP operand, with its mask (R138). -/
theorem exists_digit (n : Nat) (h : n ≤ 9) (pt : Bool) :
    ∃ (d : BitVec 4) (m : Byte), d = BitVec.ofNat 4 n ∧ d.toNat = n ∧ segMask d pt = some m := by
  have hn : (BitVec.ofNat 4 n).toNat = n := by simp; omega
  obtain ⟨m, hm⟩ := Option.isSome_iff_exists.mp ((segMask_isSome (BitVec.ofNat 4 n) pt).trans (by simpa [hn] using h))
  exact ⟨_, m, rfl, hn, hm⟩

/-- Settles O59: the four digits have masks, so a cycle is four SEGMAPs, each with its DISP. -/
theorem referenceHostWords : Obligations.ReferenceHostWords := by
  refine ⟨rfl, fun t pt => ?_⟩
  have hh := t.hour.isLt
  have hm := t.minute.isLt
  obtain ⟨d0, m0, e0, h0, s0⟩ := exists_digit (t.hour.val / 10) (by omega) pt
  obtain ⟨d1, m1, e1, h1, s1⟩ := exists_digit (t.hour.val % 10) (by omega) pt
  obtain ⟨d2, m2, e2, h2, s2⟩ := exists_digit (t.minute.val / 10) (by omega) pt
  obtain ⟨d3, m3, e3, h3, s3⟩ := exists_digit (t.minute.val % 10) (by omega) pt
  refine ⟨d0, d1, d2, d3, m0, m1, m2, m3, by rw [h0, h1, h2, h3]; rfl, s0, s1, s2, s3, ?_⟩
  have hc : t.cycle pt = [.ddig 0 d0 pt, .ddig 1 d1 pt, .ddig 2 d2 pt, .ddig 3 d3 pt] := by
    rw [e0, e1, e2, e3]
    rfl
  simp only [TimeSample.cycleWords, assemble, hc, List.flatMap_cons, List.flatMap_nil, ddig_words s0, ddig_words s1,
    ddig_words s2, ddig_words s3, encode_segmap]
  rfl

end Sys2Proof.Machine
end

section
/-! PROOFS. The platform call of a primitive, said once: which call it makes, that it fails exactly when that call
fails, and what it does to the pins when it completes (R77 to R85, R92). -/

namespace Sys2Proof.Machine

/-- The platform call a primitive makes, its pin and its kind; a wait makes none, and a hold whose condition is false none
(R77, R86, R104). -/
def State.callOf (s : State) : Prim → Option (Pin × CallKind)
  | .exportPin p => some (p, .exportPin)
  | .setDir p m => some (p, .setDir m)
  | .write p l => some (p, .write l)
  | .writeBit => some (.dio, .write s.shiftBit)
  | .read p => some (p, .read)
  | .sample => some (.dio, .read)
  | .hold => if s.acked then some (.dio, .write false) else none
  | .wait _ => none

/-- What a call that succeeds does to the registers of its pin (R82 to R85). -/
def callEffect : CallKind → PinCfg → PinCfg
  | .exportPin, q => { q with exp := true }
  | .setDir m, q => { q with dir := m }
  | .write l, q => { q with lat := l }
  | .read, q => q

/-! ### When a call fails -/

theorem State.callFails_eq_true_iff (s : State) (p : Pin) (c : CallKind) :
    s.callFails p c = true ↔ (callNeedsExport c = true ∧ (s.pin p).exp = false) ∨ s.outcomeAt p c s.calls = .fail := by
  simp [State.callFails]

/-- A call that needs its pin exported fails on a pin that is not exported, and where the platform fails it (R78, R79). -/
theorem State.callFails_of_unexported_or_fail {s : State} {p : Pin} {c : CallKind} (hc : callNeedsExport c = true)
    (h : (s.pin p).exp = false ∨ s.outcomeAt p c s.calls = .fail) : s.callFails p c = true :=
  (s.callFails_eq_true_iff p c).mpr (h.imp_left fun he => ⟨hc, he⟩)

@[simp] theorem State.enter_callFails (s : State) (i : Instr) (k : Nat) (p : Pin) (c : CallKind) :
    (s.enter i k).callFails p c = s.callFails p c := by cases p <;> rfl

@[simp] theorem State.regAct_callFails (s : State) (a : RegAct) (p : Pin) (c : CallKind) :
    (s.regAct a).callFails p c = s.callFails p c := by cases a <;> cases p <;> rfl

theorem State.platformCall_fatal_iff {s t : State} {p : Pin} {c : CallKind} {q : PinCfg} {e : Event} :
    s.platformCall p c q e = .fatal t ↔ s.callFails p c = true ∧ t = s.raiseFatal p c := by
  obtain ⟨hf, h⟩ | ⟨hf, h⟩ := s.platformCall_cases p c q e <;> simp [h, hf, eq_comm]

theorem State.pinRead_fatal_iff {s t : State} {p : Pin} :
    s.pinRead p = .fatal t ↔ s.callFails p .read = true ∧ t = s.raiseFatal p .read := by
  obtain ⟨hf, h⟩ | ⟨hf, h⟩ := s.pinRead_cases p <;> simp [h, hf, eq_comm]

theorem State.doPrim_read_fatal_iff {s t : State} {p : Pin} :
    s.doPrim (.read p) = .fatal t ↔ s.pinRead p = .fatal t := by
  cases h : s.pinRead p <;> simp [State.doPrim, h]

theorem State.doPrim_sample_fatal_iff {s t : State} : s.doPrim .sample = .fatal t ↔ s.pinRead .dio = .fatal t := by
  cases h : s.pinRead .dio <;> simp [State.doPrim, h]

/-- A primitive raises the fatal fault exactly when the call it makes fails, and then the fault of that call (R92). -/
theorem State.doPrim_fatal_iff {s t : State} {pr : Prim} :
    s.doPrim pr = .fatal t ↔
      ∃ p c, s.callOf pr = some (p, c) ∧ s.callFails p c = true ∧ t = s.raiseFatal p c := by
  cases pr with
  | exportPin p => simp [State.doPrim, State.pinExport, State.platformCall_fatal_iff, State.callOf]
  | setDir p m => simp [State.doPrim, State.pinDir, State.platformCall_fatal_iff, State.callOf]
  | write p l => simp [State.doPrim, State.pinWrite, State.platformCall_fatal_iff, State.callOf]
  | writeBit => simp [State.doPrim, State.pinWrite, State.platformCall_fatal_iff, State.callOf]
  | read p => simp [State.doPrim_read_fatal_iff, State.pinRead_fatal_iff, State.callOf]
  | sample => simp [State.doPrim_sample_fatal_iff, State.pinRead_fatal_iff, State.callOf]
  | hold =>
    cases ha : s.acked with
    | false => simp [State.doPrim, State.callOf, ha]
    | true => simp [State.doPrim, State.pinWrite, State.platformCall_fatal_iff, State.callOf, ha]
  | wait t => simp [State.doPrim, State.wait, State.callOf]

theorem State.doPrim_fails {s : State} {pr : Prim} {p : Pin} {c : CallKind} (hc : s.callOf pr = some (p, c))
    (hf : s.callFails p c = true) : s.doPrim pr = .fatal (s.raiseFatal p c) :=
  State.doPrim_fatal_iff.mpr ⟨p, c, hc, hf, rfl⟩

/-! ### What a completed primitive does to the pins -/

@[simp] theorem State.setPin_self (s : State) (p : Pin) : s.setPin p (s.pin p) = s := by cases p <;> rfl
@[simp] theorem State.drawRead_pin (s : State) (p r : Pin) : (s.drawRead p).pin r = s.pin r := by cases r <;> simp
@[simp] theorem State.setAck_pin (s : State) (v : Int) (r : Pin) : (s.setAck v).pin r = s.pin r := by cases r <;> rfl
@[simp] theorem State.setRdv_pin (s : State) (v : Int) (r : Pin) : (s.setRdv v).pin r = s.pin r := by cases r <;> rfl

theorem State.platformCall_pin {s t : State} {p : Pin} {c : CallKind} {q : PinCfg} {e : Event}
    (h : s.platformCall p c q e = .done () t) : t.pin p = q ∧ ∀ r, r ≠ p → t.pin r = s.pin r := by
  obtain ⟨-, h2⟩ | ⟨-, h2⟩ := s.platformCall_cases p c q e <;> rw [h2] at h <;> cases h
  exact ⟨by simp, fun r hr => by simp [State.setPin_pin_other s q hr]⟩

theorem State.pinRead_pin {s t : State} {p : Pin} {v : Int} (h : s.pinRead p = .done v t) (r : Pin) :
    t.pin r = s.pin r := by
  obtain ⟨-, h2⟩ | ⟨-, h2⟩ := s.pinRead_cases p <;> rw [h2] at h <;> cases h
  simp

theorem State.doPrim_read_pin {s t : State} {p : Pin} (h : s.doPrim (.read p) = .done () t) (r : Pin) :
    t.pin r = s.pin r := by
  simp only [State.doPrim] at h
  split at h <;> cases h
  next hr => simp [State.pinRead_pin hr r]

theorem State.doPrim_sample_pin {s t : State} (h : s.doPrim .sample = .done () t) (r : Pin) : t.pin r = s.pin r := by
  simp only [State.doPrim] at h
  split at h <;> cases h
  next hr => simp [State.pinRead_pin hr r]

/-- A primitive that completes has the effect of its call on the pin the call names, and leaves the other pin; one that
makes no call leaves both. -/
theorem State.doPrim_pin {s t : State} {pr : Prim} (h : s.doPrim pr = .done () t) :
    (s.callOf pr = none ∧ ∀ r, t.pin r = s.pin r) ∨
    ∃ p c, s.callOf pr = some (p, c) ∧ t.pin p = callEffect c (s.pin p) ∧ ∀ r, r ≠ p → t.pin r = s.pin r := by
  cases pr with
  | exportPin p => exact .inr ⟨p, _, rfl, State.platformCall_pin h⟩
  | setDir p m => exact .inr ⟨p, _, rfl, State.platformCall_pin h⟩
  | write p l => exact .inr ⟨p, _, rfl, State.platformCall_pin h⟩
  | writeBit => exact .inr ⟨.dio, _, rfl, State.platformCall_pin h⟩
  | read p => exact .inr ⟨p, .read, rfl, State.doPrim_read_pin h p, fun r _ => State.doPrim_read_pin h r⟩
  | sample => exact .inr ⟨.dio, .read, rfl, State.doPrim_sample_pin h _, fun r _ => State.doPrim_sample_pin h r⟩
  | hold =>
    simp only [State.doPrim] at h
    split at h
    next ha => exact .inr ⟨.dio, .write false, by simp [State.callOf, ha], State.platformCall_pin h⟩
    next ha =>
      cases h
      exact .inl ⟨by simp [State.callOf, ha], fun _ => rfl⟩
  | wait b =>
    cases h
    exact .inl ⟨rfl, fun r => by simp⟩

end Sys2Proof.Machine
end

section
/-! PROOFS. The pin commands PEXP, PDIR, PWR and PRD (spec/40_pin_driver.md R82 to R85): one platform call each. -/

namespace Sys2Proof.Machine

/-! ### A command of one primitive -/

theorem wellFormed_of_program_cons {i : Instr} {op : MicroOp} {ops : List MicroOp} (h : program i = op :: ops) :
    i.wellFormed = true := by
  cases i with
  | segmap d pt => cases h
  | _ => rfl

/-- A command of one primitive runs it, and completes unless it halted. -/
theorem exec_singleOp {i : Instr} {pr : Prim} (hi : program i = [⟨.keep, pr⟩]) {s : State} (hp : s.phase = .idle) :
    exec i s = .next (((s.enter i 0).doPrim pr).finish i) := by
  have hs : State.runSeq i 0 [⟨.keep, pr⟩] s = (s.enter i 0).doPrim pr := by
    simp only [State.runSeq, State.doOp, State.regAct_keep]
    cases (s.enter i 0).doPrim pr <;> rfl
  rw [exec_wellFormed (wellFormed_of_program_cons hi), State.runCommand_idle hp, State.runProgram_eq_finish, hi, hs]

@[simp] theorem State.enter_raiseFatal (s : State) (i : Instr) (k : Nat) (p : Pin) (c : CallKind) :
    (s.enter i k).raiseFatal p c = s.raiseFatal p c := by cases p <;> rfl

/-- A command of one primitive halts with the fault of its call when the call fails. -/
theorem exec_singleOp_fails {i : Instr} {pr : Prim} (hi : program i = [⟨.keep, pr⟩]) {s : State} (hp : s.phase = .idle)
    {p : Pin} {c : CallKind} (hc : (s.enter i 0).callOf pr = some (p, c)) (hf : s.callFails p c = true) :
    exec i s = .next (s.raiseFatal p c) := by
  rw [exec_singleOp hi hp, State.doPrim_fails hc (by simpa using hf), State.enter_raiseFatal]
  rfl

/-- A command whose one primitive configures a pin, and whose call does not fail, sets the pin's registers, appends the
event and replies NONE. -/
theorem exec_configures {i : Instr} {pr : Prim} (hi : program i = [⟨.keep, pr⟩]) {s : State} (hp : s.phase = .idle)
    {p : Pin} {c : CallKind} {q : PinCfg} {e : Event} (hd : (s.enter i 0).doPrim pr = (s.enter i 0).platformCall p c q e)
    (hr : ∀ u : State, u.replyFor i = some .noValue) (hf : s.callFails p c = false) :
    exec i s = .next { s.setPin p q with
      trace := s.trace ++ [e], replies := s.replies ++ [.noValue], calls := s.calls + 1, xfer := none, rdv := none } := by
  rw [exec_singleOp hi hp, hd, State.platformCall_done _ _ _ _ _ (by simpa using hf)]
  cases p <;> simp [PrimResult.finish, State.complete, hr, hp]

/-- The line of an exported pin is its latch for an output and the environment's level for an input (R21). -/
theorem State.line_of_exported {s : State} {p : Pin} {q : PinCfg} (hq : s.pin p = q) (he : q.exp = true) (env : Int) :
    s.line p env = if q.dir = .out then levelValue q.lat else env := by
  unfold State.line PinCfg.driven
  cases hd : q.dir <;> simp [hq, he, hd]

/-! ### PEXP, PDIR, PWR -/

/-- Settles O16: PEXP's one call does not need the pin exported, so the platform's outcome alone decides. -/
theorem pexpExportsThePin : Obligations.PexpExportsThePin := by
  intro s p hp
  refine ⟨fun ho => ?_, fun ho => ⟨failedPin p .exportPin s.calls, ?_⟩⟩
  · exact exec_configures rfl hp rfl (fun _ => rfl) (s.callFails_false p .exportPin (by simp [callNeedsExport]) ho)
  · exact exec_singleOp_fails rfl hp rfl ((s.callFails_eq_true_iff p _).mpr (.inr ho))

/-- Settles O17: PDIR's call sets DIR of its pin only, so the line is that of the old latch in the new direction. -/
theorem pdirSetsTheDirection : Obligations.PdirSetsTheDirection := by
  intro s p m hp
  refine ⟨fun he ho => ⟨_, ?_, rfl, fun env => ?_⟩, fun ho => ⟨failedPin p (.setDir m) s.calls, ?_⟩⟩
  · exact exec_configures rfl hp rfl (fun _ => rfl) (s.callFails_false p _ (fun _ => he) ho)
  · exact State.line_of_exported (q := { s.pin p with dir := m }) (by cases p <;> rfl) he env
  · exact exec_singleOp_fails rfl hp rfl (State.callFails_of_unexported_or_fail rfl ho)

/-- Settles O18: PWR's call sets LAT of its pin only, so the line is that of the new latch in the old direction. -/
theorem pwrWritesTheLatch : Obligations.PwrWritesTheLatch := by
  intro s p l hp
  refine ⟨fun he ho => ⟨_, ?_, rfl, fun env => ?_⟩, fun ho => ⟨failedPin p (.write l) s.calls, ?_⟩⟩
  · exact exec_configures rfl hp rfl (fun _ => rfl) (s.callFails_false p _ (fun _ => he) ho)
  · exact State.line_of_exported (q := { s.pin p with lat := l }) (by cases p <;> rfl) he env
  · exact exec_singleOp_fails rfl hp rfl (State.callFails_of_unexported_or_fail rfl ho)

/-! ### PRD -/

theorem State.readValue_of_out {s : State} {p : Pin} (h : (s.pin p).dir = .out) :
    s.readValue p = levelValue (s.pin p).lat := if_pos h

theorem State.readValue_of_inp {s : State} {p : Pin} (h : (s.pin p).dir = .inp) :
    s.readValue p = s.envValueAt p s.reads := if_neg (by simp [h])

theorem State.drawRead_of_out {s : State} {p : Pin} (h : (s.pin p).dir = .out) : s.drawRead p = s := if_pos h

theorem State.drawRead_of_inp {s : State} {p : Pin} (h : (s.pin p).dir = .inp) : s.drawRead p = s.countRead :=
  if_neg (by simp [h])

theorem State.drawRead_reads (s : State) (p : Pin) :
    (s.drawRead p).reads = if (s.pin p).dir = .out then s.reads else s.reads + 1 := by
  unfold State.drawRead
  split <;> rfl

@[simp] theorem State.enter_readValue (s : State) (i : Instr) (k : Nat) (p : Pin) :
    (s.enter i k).readValue p = s.readValue p := by cases p <;> rfl

/-- A read whose call does not fail gives its value, with one event and the draw of an input. -/
theorem State.pinRead_done {s : State} {p : Pin} (hf : s.callFails p .read = false) :
    s.pinRead p = .done (s.readValue p) ((s.countCall.emit (.read p (s.readValue p))).drawRead p) := by
  obtain ⟨-, h⟩ | ⟨h, -⟩ := s.pinRead_cases p
  · simpa using h
  · simp [hf] at h

/-- A PRD whose call does not fail replies the value read, whatever the direction. -/
theorem exec_prd_done {s : State} {p : Pin} (hp : s.phase = .idle) (hf : s.callFails p .read = false) :
    exec (.prd p) s = .next { s.drawRead p with
      trace := s.trace ++ [.read p (s.readValue p)], replies := s.replies ++ [.level (s.readValue p)],
      calls := s.calls + 1, xfer := none, rdv := none } := by
  have hd := State.pinRead_done (s := s.enter (.prd p) 0) (p := p) (by simpa using hf)
  rw [exec_singleOp (pr := .read p) rfl hp]
  simp [State.doPrim, hd, PrimResult.finish, State.complete, State.replyFor, State.drawRead_reads, hp]

/-- Settles O19: an output answers its latch and draws nothing, an input answers the environment's next draw. -/
theorem prdRepliesTheLevel : Obligations.PrdRepliesTheLevel := by
  intro s p hp
  refine ⟨fun he ho hd => ?_, fun he ho hd => ⟨s.envValueAt_mem p s.reads, ?_⟩,
    fun ho => ⟨failedPin p .read s.calls, ?_⟩⟩
  · rw [exec_prd_done hp (s.callFails_false p _ (fun _ => he) ho), State.readValue_of_out hd, State.drawRead_of_out hd]
    rfl
  · rw [exec_prd_done hp (s.callFails_false p _ (fun _ => he) ho), State.readValue_of_inp hd, State.drawRead_of_inp hd]
    rfl
  · exact exec_singleOp_fails rfl hp rfl (State.callFails_of_unexported_or_fail rfl ho)

/-! ### The frame -/

/-- What a command of one primitive that makes a call does: the fault of the call, or the call's effect on its pin and
nothing to the other pin and the fault state. -/
theorem exec_singleOp_cases {i : Instr} {pr : Prim} (hi : program i = [⟨.keep, pr⟩]) {p : Pin} {c : CallKind}
    (hc : ∀ u : State, u.callOf pr = some (p, c)) {s t : State} (h : exec i s = .next t) :
    t = s.raiseFatal p c ∨
    (t.phase = .idle ∧ s.Progress t ∧ t.pin p = callEffect c (s.pin p) ∧ ∀ r, r ≠ p → t.pin r = s.pin r) := by
  have hp := (exec_cases h).1
  rw [exec_singleOp hi hp] at h
  cases hd : (s.enter i 0).doPrim pr with
  | fatal u =>
    obtain ⟨p', c', hc', -, rfl⟩ := State.doPrim_fatal_iff.mp hd
    cases (hc _).symm.trans hc'
    rw [hd] at h
    cases h
    exact .inl (s.enter_raiseFatal i 0 p c)
  | done v u =>
    obtain ⟨hn, -⟩ | ⟨p', c', hc', hpin, hother⟩ := State.doPrim_pin hd
    · simp [hc] at hn
    · cases (hc _).symm.trans hc'
      rw [hd] at h
      cases h
      exact .inr ⟨rfl, ((s.enter_progress i 0).trans (State.doPrim_progress hd)).trans (u.complete_progress i),
        by simpa [PrimResult.finish] using hpin, by simpa [PrimResult.finish] using hother⟩

/-- The one call of a pin command, and the register of its pin that it can write. -/
theorem pinCommand_call {i : Instr} {p : Pin}
    (h : i = .pexp p ∨ (∃ m, i = .pdir p m) ∨ (∃ l, i = .pwr p l) ∨ i = .prd p) :
    ∃ pr c, program i = [⟨.keep, pr⟩] ∧ (∀ u : State, u.callOf pr = some (p, c)) ∧ ∀ q : PinCfg,
      (i ≠ .pexp p → (callEffect c q).exp = q.exp) ∧ ((∀ m, i ≠ .pdir p m) → (callEffect c q).dir = q.dir) ∧
      ((∀ l, i ≠ .pwr p l) → (callEffect c q).lat = q.lat) := by
  obtain rfl | ⟨m, rfl⟩ | ⟨l, rfl⟩ | rfl := h <;> exact ⟨_, _, rfl, fun _ => rfl, by simp [callEffect]⟩

/-- Settles O43: the one call of a pin command either writes its register of the named pin, or raises its fault. -/
theorem pinCommandsFrame : Obligations.PinCommandsFrame := by
  intro s t i p r hr hi h
  obtain ⟨pr, c, hprog, hcall, hreg⟩ := pinCommand_call hi
  obtain rfl | ⟨hidle, hpg, hpin, hother⟩ := exec_singleOp_cases hprog hcall h
  · exact ⟨s.raiseFatal_pin_other c hr, fun _ => by simp, fun hidle => by simp at hidle⟩
  · refine ⟨hother r hr, fun hh => by simp [hidle] at hh, fun _ => ⟨hpg.fatal, hpg.fcode, hpg.diag, ?_⟩⟩
    rw [hpin]
    exact hreg _

end Sys2Proof.Machine
end

section
/-! PROOFS. The line commands START, STOP, WBYTE and DISP: that they need exported pins (R109, R120, R130), the
acknowledgment a WBYTE replies (R102, R106), and their frame (R107, R115, R119, R129). -/

namespace Sys2Proof.Machine

/-- The commands that drive the wire. -/
abbrev isLineCommand (i : Instr) : Prop := i = .start ∨ i = .stop ∨ (∃ b, i = .wbyte b) ∨ (∃ c m, i = .disp c m)

theorem lineCommand_wellFormed {i : Instr} (h : isLineCommand i) : i.wellFormed = true := by
  obtain rfl | rfl | ⟨b, rfl⟩ | ⟨c, m, rfl⟩ := h <;> rfl

/-! ### Pins that are not exported -/

/-- A line command begins with a write to CLK, high for START and DISP and low for STOP and WBYTE, and then a write to
DIO. -/
theorem lineCommand_program {i : Instr} (h : isLineCommand i) :
    ∃ a l pr rest, program i = ⟨a, .write .clk l⟩ :: ⟨.keep, pr⟩ :: rest ∧
      (∀ u : State, ∃ l', u.callOf pr = some (.dio, .write l')) ∧
      (i = .start ∨ (∃ c m, i = .disp c m) → l = true) ∧ (i = .stop ∨ (∃ b, i = .wbyte b) → l = false) := by
  obtain rfl | rfl | ⟨b, rfl⟩ | ⟨c, m, rfl⟩ := h <;> exact ⟨_, _, _, _, rfl, fun _ => ⟨_, rfl⟩, by simp, by simp⟩

theorem exec_of_runSeq_fatal {i : Instr} {s t : State} (hw : i.wellFormed = true) (hp : s.phase = .idle)
    (h : State.runSeq i 0 (program i) s = .fatal t) : exec i s = .next t := by
  rw [exec_wellFormed hw, State.runCommand_idle hp, State.runProgram_eq_finish, h]
  rfl

/-- A micro-step whose call fails ends the run with the fault of that call. -/
theorem State.runSeq_cons_fails {i : Instr} {k : Nat} {op : MicroOp} {rest : List MicroOp} {s : State} {p : Pin}
    {c : CallKind} (hc : ((s.enter i k).regAct op.act).callOf op.prim = some (p, c)) (hf : s.callFails p c = true) :
    State.runSeq i k (op :: rest) s = .fatal (((s.enter i k).regAct op.act).raiseFatal p c) :=
  State.runSeq_cons_fatal (State.doPrim_fails hc (by simpa using hf))

/-- A write that does not fail appends its event and sets the latch, and the run goes on. -/
theorem State.runSeq_cons_write {i : Instr} {k : Nat} {a : RegAct} {p : Pin} {l : Level} {s : State}
    (hf : s.callFails p (.write l) = false) (rest : List MicroOp) :
    ∃ u, State.runSeq i k (⟨a, .write p l⟩ :: rest) s = State.runSeq i (k + 1) rest u ∧
      u.trace = s.trace ++ [.write p l] ∧ u.replies = s.replies ∧ u.pin p = { s.pin p with lat := l } ∧
      ∀ r, r ≠ p → u.pin r = s.pin r := by
  have hd : (s.enter i k).doOp ⟨a, .write p l⟩ = .done () _ :=
    State.platformCall_done _ p (.write l) _ _ (by simpa using hf)
  refine ⟨_, State.runSeq_cons_done hd, by simp, by simp, ?_, fun r hr => ?_⟩
  · simp
  · simp [State.setPin_pin_other _ _ hr]

/-- Settles O32: the first micro-step is a write to CLK and the second one to DIO, and a write needs its pin exported. -/
theorem lineCommandsNeedExportedPins : Obligations.LineCommandsNeedExportedPins := by
  intro s i hp hi
  obtain ⟨a, l, pr, rest, hprog, hdio, hhigh, hlow⟩ := lineCommand_program hi
  have hw := lineCommand_wellFormed hi
  refine ⟨fun hc => ?_, fun hc hd hok => ?_⟩
  · have hf : s.callFails .clk (.write l) = true := State.callFails_of_unexported_or_fail rfl (.inl hc)
    have hother := ((s.enter i 0).regAct a).raiseFatal_pin_other (p := .clk) (r := .dio) (.write l) (by decide)
    refine ⟨_, exec_of_runSeq_fatal hw hp (hprog ▸ State.runSeq_cons_fails rfl hf), ?_⟩
    exact ⟨by simp, by simp, by simp [callCode], by simp, by simpa using hother, by simp⟩
  · have hf : s.callFails .clk (.write l) = false := s.callFails_false _ _ (fun _ => hc) (hok 0 (by decide) _ _)
    obtain ⟨u, hu, htr, hrep, hclk, hdio'⟩ :=
      State.runSeq_cons_write (i := i) (k := 0) (a := a) hf (⟨.keep, pr⟩ :: rest)
    obtain ⟨l', hcall⟩ := hdio (u.enter i 1)
    have hexp : (u.pin .dio).exp = false := by rw [hdio' .dio (by decide)]; exact hd
    have hf' : u.callFails .dio (.write l') = true := State.callFails_of_unexported_or_fail rfl (.inl hexp)
    have hother := (u.enter i 1).raiseFatal_pin_other (p := .dio) (r := .clk) (.write l') (by decide)
    refine ⟨_, l, exec_of_runSeq_fatal hw hp (by rw [hprog, hu]; exact State.runSeq_cons_fails hcall hf'), ?_⟩
    exact ⟨by simp, by simp, by simp [callCode], hhigh, hlow, by simp [htr], hother.trans hclk, by simp [hrep]⟩

/-! ### The acknowledgment -/

theorem State.runSeq_done_sameHost {i : Instr} {k : Nat} {ops : List MicroOp} {s u : State}
    (h : State.runSeq i k ops s = .done () u) : s.SameHost u := by
  have hs := State.runSeq_sameHost i k ops s
  rwa [h] at hs

/-- A run that completes completed its first part and then its second. -/
theorem State.runSeq_append_inv {i : Instr} {k : Nat} {a b : List MicroOp} {s u : State}
    (h : State.runSeq i k (a ++ b) s = .done () u) :
    ∃ t, State.runSeq i k a s = .done () t ∧ State.runSeq i (k + a.length) b t = .done () u := by
  rw [State.runSeq_append] at h
  cases ha : State.runSeq i k a s with
  | done v t => exact ⟨t, rfl, by simpa [ha] using h⟩
  | fatal t => simp [ha] at h

/-- From the release of DIO to the sample: micro-steps 43 to 45 of a byte write (R94). -/
def releaseAndSampleOps : List MicroOp := [⟨.keep, .setDir .dio .inp⟩, ⟨.keep, .wait .tAck⟩, ⟨.keep, .sample⟩]

/-- After the sample: micro-steps 46 to 49 of a byte write (R94). -/
def afterSampleOps : List MicroOp :=
  [⟨.keep, .hold⟩, ⟨.keep, .wait .tAck⟩, ⟨.keep, .setDir .dio .out⟩, ⟨.keep, .wait .tAck⟩]

theorem byteWriteOps_eq_append_sample (b : Byte) :
    byteWriteOps b = (byteWriteOps b).take 43 ++ (releaseAndSampleOps ++ afterSampleOps) := rfl

theorem State.eq_of_setAck_ackv {s : State} {v w : Int} (h : (s.setAck v).ackv = some w) : v = w := by
  cases hx : s.xfer with
  | none => simp [State.ackv, hx] at h
  | some x => simpa [State.ackv, hx] using h

/-- A sample of an input is a member of READ_VALUES (R85, R101). -/
theorem State.doPrim_sample_ackv {s t : State} (hd : s.dio.dir = .inp) (h : s.doPrim .sample = .done () t) {v : Int}
    (hv : t.ackv = some v) : inReadValues t.readValues v := by
  obtain ⟨-, hr⟩ | ⟨-, hr⟩ := s.pinRead_cases .dio <;> simp only [State.doPrim, hr] at h <;> cases h
  rw [← State.eq_of_setAck_ackv hv, State.readValue_of_inp (s := s) (p := .dio) hd]
  simpa using s.envValueAt_mem .dio s.reads

/-- The sample of a byte write finds DIO released, so it is the environment's (R98 to R101). -/
theorem State.runSeq_releaseAndSample_ackv {i : Instr} {k : Nat} {s u : State}
    (h : State.runSeq i k releaseAndSampleOps s = .done () u) {v : Int} (hv : u.ackv = some v) :
    inReadValues u.readValues v := by
  obtain ⟨t1, hdir, h⟩ := State.runSeq_cons_inv h
  obtain ⟨t2, hwait, h⟩ := State.runSeq_cons_inv h
  obtain ⟨t3, hsample, h⟩ := State.runSeq_cons_inv h
  cases h
  have hinp : t1.dio.dir = .inp := congrArg PinCfg.dir (State.platformCall_pin hdir).1
  have hinp' : t2.dio.dir = .inp := by
    cases hwait
    exact hinp
  exact State.doPrim_sample_ackv (s := t2.enter i (k + 1 + 1)) hinp' hsample hv

/-- Micro-steps that neither sample nor write the transient registers on arrival leave ACKV. -/
theorem State.runSeq_ackv {i : Instr} {ops : List MicroOp} (hops : ∀ op ∈ ops, op.act = .keep ∧ op.prim ≠ .sample)
    {k : Nat} {s u : State} (h : State.runSeq i k ops s = .done () u) : u.ackv = s.ackv := by
  induction ops generalizing k s with
  | nil => cases h; rfl
  | cons op rest ih =>
    obtain ⟨⟨hact, hprim⟩, hrest⟩ := List.forall_mem_cons.mp hops
    obtain ⟨t, ht, hu⟩ := State.runSeq_cons_inv h
    rw [State.doOp, hact] at ht
    obtain ⟨hs, -⟩ | ⟨-, hx⟩ := State.doPrim_xfer ht
    · exact absurd hs hprim
    · rw [ih hrest hu, State.ackv, State.ackv, hx]
      rfl

/-- The acknowledgment a completed byte write has sampled is a member of READ_VALUES. -/
theorem State.runSeq_byteWriteOps_ackv {i : Instr} {k : Nat} {b : Byte} {s u : State}
    (h : State.runSeq i k (byteWriteOps b) s = .done () u) {v : Int} (hv : u.ackv = some v) :
    inReadValues s.readValues v := by
  have hwhole := State.runSeq_done_sameHost h
  rw [byteWriteOps_eq_append_sample] at h
  obtain ⟨t, -, h⟩ := State.runSeq_append_inv h
  obtain ⟨t', hsample, hafter⟩ := State.runSeq_append_inv h
  rw [State.runSeq_ackv (by decide) hafter] at hv
  have hmem := State.runSeq_releaseAndSample_ackv hsample hv
  rwa [← (State.runSeq_done_sameHost hafter).readValues, hwhole.readValues] at hmem

/-- Settles O33: the reply is the sample, which is there on completion and is one of the environment's answers. -/
theorem wbyteAcknowledgmentIsAReadValue : Obligations.WbyteAcknowledgmentIsAReadValue := by
  intro s t b h hidle
  obtain ⟨-, ⟨hill, -⟩ | ⟨u, hu, rfl⟩ | hf⟩ := exec_cases h
  · cases hill
  · obtain ⟨v, hv⟩ := State.runSeq_wbyte_ackv (by decide) (s.arrive_xferFits_load rfl) hu
    have hrep := (State.runSeq_done_sameHost hu).replies
    exact ⟨v, State.runSeq_byteWriteOps_ackv hu hv, by simp [State.replyFor, hv, hrep]⟩
  · simp [(State.runSeq_fatal_halted hf).1] at hidle

/-! ### The frame -/

/-- A run that halts completed the micro-steps before the one whose call failed. -/
theorem State.runSeq_fatal_split {i : Instr} {ops : List MicroOp} {k : Nat} {s t : State}
    (h : State.runSeq i k ops s = .fatal t) :
    ∃ pre op post u, ops = pre ++ op :: post ∧ State.runSeq i k pre s = .done () u ∧
      (u.enter i (k + pre.length)).doOp op = .fatal t := by
  induction ops generalizing k s with
  | nil => cases h
  | cons op rest ih =>
    cases hd : (s.enter i k).doOp op with
    | fatal u =>
      rw [State.runSeq_cons_fatal hd] at h
      exact ⟨[], op, rest, s, rfl, rfl, h ▸ hd⟩
    | done v u =>
      rw [State.runSeq_cons_done hd] at h
      obtain ⟨pre, op', post, w, rfl, hpre, hf⟩ := ih h
      refine ⟨op :: pre, op', post, w, rfl, by rw [State.runSeq_cons_done hd, hpre], ?_⟩
      rwa [show k + (op :: pre).length = k + 1 + pre.length by simp; omega]

/-- No call of the micro-steps changes what f reads of the registers of pin r. -/
def keepsRegister {α : Type} (f : PinCfg → α) (r : Pin) (ops : List MicroOp) : Prop :=
  ∀ op ∈ ops, ∀ (s : State) (c : CallKind), s.callOf op.prim = some (r, c) → ∀ q, f (callEffect c q) = f q

theorem keepsRegister.of_append {α : Type} {f : PinCfg → α} {r : Pin} {pre post : List MicroOp}
    (h : keepsRegister f r (pre ++ post)) : keepsRegister f r pre := fun op hop => h op (List.mem_append_left _ hop)

theorem State.doOp_keepsRegister {α : Type} {f : PinCfg → α} {r : Pin} {s t : State} {op : MicroOp}
    (hop : ∀ (u : State) (c : CallKind), u.callOf op.prim = some (r, c) → ∀ q, f (callEffect c q) = f q)
    (h : s.doOp op = .done () t) : f (t.pin r) = f (s.pin r) := by
  obtain ⟨-, hpin⟩ | ⟨p, c, hc, hpin, hother⟩ := State.doPrim_pin h
  · simp [hpin]
  · rcases eq_or_ne r p with rfl | hr
    · simp [hpin, hop _ c hc]
    · simp [hother r hr]

/-- A run that completes leaves every register that its calls leave. -/
theorem State.runSeq_keepsRegister {α : Type} {f : PinCfg → α} {r : Pin} {i : Instr} {ops : List MicroOp}
    (hops : keepsRegister f r ops) {k : Nat} {s t : State} (h : State.runSeq i k ops s = .done () t) :
    f (t.pin r) = f (s.pin r) := by
  induction ops generalizing k s with
  | nil => cases h; rfl
  | cons op rest ih =>
    obtain ⟨hop, hrest⟩ := List.forall_mem_cons.mp hops
    obtain ⟨u, hu, ht⟩ := State.runSeq_cons_inv h
    rw [ih hrest ht, State.doOp_keepsRegister hop hu, State.enter_pin]

/-- A run that halts raises the fault of one call, and leaves every register of the other pin that its calls leave. -/
theorem State.runSeq_fatal_keepsRegister {i : Instr} {ops : List MicroOp} {k : Nat} {s t : State}
    (h : State.runSeq i k ops s = .fatal t) :
    ∃ p c, t.diag = some (p, c) ∧ ∀ r, r ≠ p → ∀ {α : Type} (f : PinCfg → α), keepsRegister f r ops →
      f (t.pin r) = f (s.pin r) := by
  obtain ⟨pre, op, post, u, rfl, hpre, hf⟩ := State.runSeq_fatal_split h
  obtain ⟨p, c, rfl⟩ := State.doOp_fatal hf
  refine ⟨p, c, by simp, fun r hr _ f hk => ?_⟩
  rw [State.raiseFatal_pin_other _ c hr, State.regAct_pin, State.enter_pin]
  exact State.runSeq_keepsRegister hk.of_append hpre

/-- The primitives of the line commands, none of which makes a pin exported or sets the direction of CLK. -/
def Prim.onLine : Prim → Bool
  | .exportPin _ => false
  | .setDir .clk _ => false
  | _ => true

theorem byteWriteOps_onLine (b : Byte) : (byteWriteOps b).all (fun op => op.prim.onLine) = true := rfl

theorem lineCommand_onLine {i : Instr} (h : isLineCommand i) : ∀ op ∈ program i, op.prim.onLine = true := by
  rw [← List.all_eq_true]
  obtain rfl | rfl | ⟨b, rfl⟩ | ⟨c, m, rfl⟩ := h
  · rfl
  · rfl
  · exact byteWriteOps_onLine b
  · simp only [program, dispOps, List.all_append, byteWriteOps_onLine]
    rfl

theorem framing_writes {i : Instr} (h : i = .start ∨ i = .stop) : ∀ op ∈ program i, ∃ p l, op.prim = .write p l := by
  obtain rfl | rfl := h <;> simp [program, startOps, stopOps]

/-- A line command's calls are writes, reads, and direction sets of DIO. -/
theorem State.callOf_onLine {s : State} {pr : Prim} (h : pr.onLine = true) {p : Pin} {c : CallKind}
    (hc : s.callOf pr = some (p, c)) : (∃ l, c = .write l) ∨ c = .read ∨ (p = .dio ∧ ∃ m, c = .setDir m) := by
  cases pr with
  | exportPin q => cases h
  | setDir q m =>
    cases q with
    | clk => cases h
    | dio => cases hc; exact .inr (.inr ⟨rfl, m, rfl⟩)
  | write q l => cases hc; exact .inl ⟨l, rfl⟩
  | writeBit => cases hc; exact .inl ⟨_, rfl⟩
  | read q => cases hc; exact .inr (.inl rfl)
  | sample => cases hc; exact .inr (.inl rfl)
  | hold =>
    simp only [State.callOf] at hc
    split at hc <;> cases hc
    exact .inl ⟨false, rfl⟩
  | wait b => cases hc

theorem lineCommand_keeps_exp {i : Instr} (h : isLineCommand i) (r : Pin) :
    keepsRegister PinCfg.exp r (program i) := by
  intro op hop s c hc q
  obtain ⟨l, rfl⟩ | rfl | ⟨-, m, rfl⟩ := State.callOf_onLine (lineCommand_onLine h op hop) hc <;> rfl

theorem lineCommand_keeps_clk_dir {i : Instr} (h : isLineCommand i) : keepsRegister PinCfg.dir .clk (program i) := by
  intro op hop s c hc q
  obtain ⟨l, rfl⟩ | rfl | ⟨hp, -⟩ := State.callOf_onLine (lineCommand_onLine h op hop) hc
  · rfl
  · rfl
  · cases hp

theorem framing_keeps_dir {i : Instr} (h : i = .start ∨ i = .stop) (r : Pin) :
    keepsRegister PinCfg.dir r (program i) := by
  intro op hop s c hc q
  obtain ⟨p, l, hw⟩ := framing_writes h op hop
  rw [hw] at hc
  cases hc
  rfl

/-- Settles O44: no call of a line command writes EXP or the direction of CLK, and the fault spoils the named pin only. -/
theorem lineCommandsFrame : Obligations.LineCommandsFrame := by
  intro s t i hi h
  have hexp := lineCommand_keeps_exp hi
  have hdir := lineCommand_keeps_clk_dir hi
  obtain ⟨-, ⟨hill, -⟩ | ⟨u, hu, rfl⟩ | hf⟩ := exec_cases h
  · simp [lineCommand_wellFormed hi] at hill
  · have hpg := State.runSeq_done_progress hu
    refine ⟨fun _ => ?_, fun hh => by simp at hh⟩
    simp only [State.complete_clk, State.complete_dio, State.complete_fatal, State.complete_fcode, State.complete_diag]
    exact ⟨State.runSeq_keepsRegister (hexp .clk) hu, State.runSeq_keepsRegister (hexp .dio) hu,
      State.runSeq_keepsRegister hdir hu, fun hfr => State.runSeq_keepsRegister (framing_keeps_dir hfr .dio) hu,
      hpg.fatal, hpg.fcode, hpg.diag⟩
  · have hsame := State.runSeq_sameHost i 0 (program i) s
    rw [hf] at hsame
    obtain ⟨p, c, hdiag, hkeep⟩ := State.runSeq_fatal_keepsRegister hf
    refine ⟨fun hidle => by simp [(State.runSeq_fatal_halted hf).1] at hidle, fun _ => ⟨hsame.replies, p, c, hdiag, ?_⟩⟩
    exact fun r hr => ⟨hkeep r hr _ (hexp r), fun hclk => hclk ▸ hkeep .clk (hclk ▸ hr) _ hdir⟩

end Sys2Proof.Machine
end

section
/-! PROOFS. The events of a byte write (R108): their parts and counts, the bits a receiver takes from them, the conditions
they make on the wire (R95, R96, R103), and the WBYTE that completes (R106, R107). -/

namespace Sys2Proof.Machine

/-! ### The event list in two parts -/

/-- The data bits of a byte in the order they are sent (R96). -/
def byteBits (b : Byte) : List Level := (List.range 8).map b.getLsbD

/-- The events of the acknowledgment turnaround with sample v (R98 to R105, R108). -/
def turnaroundEvents (v : Int) : List Event :=
  [.write .clk false, .write .dio true, .write .clk true, .dir .dio .inp, .wait .tAck, .read .dio v] ++
  (if v = 0 then [.write .dio false] else []) ++
  [.wait .tAck, .dir .dio .out, .wait .tAck]

theorem byteWriteEvents_eq (b : Byte) (v : Int) :
    byteWriteEvents b v = (byteBits b).flatMap bitEvents ++ turnaroundEvents v := by
  simp only [byteWriteEvents, turnaroundEvents, List.append_assoc]
  rfl

theorem turnaroundEvents_of_ack : turnaroundEvents 0 =
    [.write .clk false, .write .dio true, .write .clk true, .dir .dio .inp, .wait .tAck, .read .dio 0,
      .write .dio false, .wait .tAck, .dir .dio .out, .wait .tAck] := rfl

theorem turnaroundEvents_of_no_ack {v : Int} (hv : v ≠ 0) : turnaroundEvents v =
    [.write .clk false, .write .dio true, .write .clk true, .dir .dio .inp, .wait .tAck, .read .dio v,
      .wait .tAck, .dir .dio .out, .wait .tAck] := by
  simp [turnaroundEvents, hv]

/-! ### Counts -/

/-- A data bit has five events: three calls and two waits. -/
theorem bitEvents_counts (l : Level) :
    (bitEvents l).length = 5 ∧ (bitEvents l).countP Event.isCall = 3 ∧ (bitEvents l).countP (fun e => !e.isCall) = 2 :=
  ⟨rfl, rfl, rfl⟩

theorem flatMap_bitEvents_counts (ls : List Level) :
    (ls.flatMap bitEvents).length = 5 * ls.length ∧ (ls.flatMap bitEvents).countP Event.isCall = 3 * ls.length ∧
    (ls.flatMap bitEvents).countP (fun e => !e.isCall) = 2 * ls.length := by
  induction ls with
  | nil => exact ⟨rfl, rfl, rfl⟩
  | cons l ls ih =>
    obtain ⟨hlen, hcall, hwait⟩ := bitEvents_counts l
    simp only [List.flatMap_cons, List.length_append, List.countP_append, List.length_cons]
    omega

/-- Settles O27: eight data bits, and the turnaround, one call longer after an acknowledgment. -/
theorem byteWriteEventCounts : Obligations.ByteWriteEventCounts := by
  intro b v
  obtain ⟨hlen, hcall, hwait⟩ := flatMap_bitEvents_counts (byteBits b)
  rw [byteWriteEvents_eq, List.length_append, List.countP_append, List.countP_append, hlen, hcall, hwait]
  by_cases hv : v = 0
  · subst hv
    exact ⟨rfl, rfl, rfl⟩
  · rw [turnaroundEvents_of_no_ack hv, if_neg hv, if_neg hv]
    exact ⟨rfl, rfl, rfl⟩

/-! ### The WBYTE that completes -/

/-- Settles O26: the run of the whole byte write, and its completion with the sample as the reply. -/
theorem wbyteSendsTheByteAndRepliesTheSample : Obligations.WbyteSendsTheByteAndRepliesTheSample := by
  intro s b v hp hc hd hv hok
  have hrun := State.runSeq_byteWrite (.wbyte b) 0 [] s b hc hd v hok hv
  rw [List.append_nil] at hrun
  rw [exec_wellFormed rfl, State.runCommand_idle hp, State.runProgram_eq_finish, program, hrun]
  simp [PrimResult.finish, State.complete, State.replyFor, State.ackv, hp]

/-- The events of a WBYTE that completes are those of its byte write. -/
theorem exec_wbyte_trace {s : State} {b : Byte} {v : Int} (hp : s.phase = .idle) (hc : s.clk.exp = true)
    (hd : s.dio.exp = true) (hv : s.envValueAt .dio s.reads = v) (hok : s.answersOk (if v = 0 then 31 else 30)) :
    ∃ t, exec (.wbyte b) s = .next t ∧ t.trace = s.trace ++ byteWriteEvents b v :=
  ⟨_, wbyteSendsTheByteAndRepliesTheSample s b v hp hc hd hv hok, rfl⟩

/-! ### What a receiver sees -/

/-- Both lines driven, CLK to c and DIO to d. -/
def drivenLines (c d : Level) : Lines := ⟨⟨true, .out, c⟩, ⟨true, .out, d⟩⟩

/-- With both pins exported outputs the engine drives both lines (R21). -/
theorem State.lines_of_driven {s : State} (hc : s.clk.exp = true) (hcd : s.clk.dir = .out) (hd : s.dio.exp = true)
    (hdd : s.dio.dir = .out) : s.lines = drivenLines s.clk.lat s.dio.lat := by
  have hclk : s.clk = ⟨true, .out, s.clk.lat⟩ := by rw [← hc, ← hcd]
  have hdio : s.dio = ⟨true, .out, s.dio.lat⟩ := by rw [← hd, ← hdd]
  exact congrArg₂ Lines.mk hclk hdio

theorem Lines.conditions_append (x : Lines) (es fs : List Event) :
    x.conditions (es ++ fs) = x.conditions es ++ (es.foldl Lines.after x).conditions fs := by
  induction es generalizing x with
  | nil => rfl
  | cons e es ih => simp [Lines.conditions, ih]

theorem Lines.bitsTaken_append (x : Lines) (es fs : List Event) :
    x.bitsTaken (es ++ fs) = x.bitsTaken es ++ (es.foldl Lines.after x).bitsTaken fs := by
  induction es generalizing x with
  | nil => rfl
  | cons e es ih => simp [Lines.bitsTaken, ih]

theorem Lines.wireConditions_append (env : Nat → EnvLevels) (x : Lines) (es fs : List Event) :
    Lines.wireConditions env x (es ++ fs) =
      Lines.wireConditions env x es ++
        Lines.wireConditions (fun n => env (n + es.length)) (es.foldl Lines.after x) fs := by
  induction es generalizing env x with
  | nil => rfl
  | cons e es ih => simp [Lines.wireConditions, ih, Nat.add_assoc]

/-- After a data bit CLK is high and DIO holds the bit (R95). -/
theorem bitEvents_after (c d l : Level) : (bitEvents l).foldl Lines.after (drivenLines c d) = drivenLines true l := rfl

/-- DIO changes while CLK is low only, so a data bit makes no condition (R95). -/
theorem bitEvents_conditions (c d l : Level) : (drivenLines c d).conditions (bitEvents l) = [] := by
  cases c <;> cases d <;> cases l <;> rfl

/-- The receiver takes a data bit at its one rising clock edge (R95). -/
theorem bitEvents_bitsTaken (c d l : Level) : (drivenLines c d).bitsTaken (bitEvents l) = [some l] := by
  cases c <;> rfl

theorem bitEvents_wireConditions (env : Nat → EnvLevels) (c d l : Level) :
    Lines.wireConditions env (drivenLines c d) (bitEvents l) = [] := by
  cases c <;> cases d <;> cases l <;> rfl

/-- The data bits in a row: the lines after them. -/
theorem flatMap_bitEvents_after (c d : Level) (ls : List Level) :
    ∃ c' d', (ls.flatMap bitEvents).foldl Lines.after (drivenLines c d) = drivenLines c' d' := by
  induction ls generalizing c d with
  | nil => exact ⟨c, d, rfl⟩
  | cons l ls ih =>
    rw [List.flatMap_cons, List.foldl_append, bitEvents_after]
    exact ih true l

theorem flatMap_bitEvents_conditions (c d : Level) (ls : List Level) :
    (drivenLines c d).conditions (ls.flatMap bitEvents) = [] := by
  induction ls generalizing c d with
  | nil => rfl
  | cons l ls ih => rw [List.flatMap_cons, Lines.conditions_append, bitEvents_conditions, bitEvents_after, ih]; rfl

theorem flatMap_bitEvents_bitsTaken (c d : Level) (ls : List Level) :
    (drivenLines c d).bitsTaken (ls.flatMap bitEvents) = ls.map some := by
  induction ls generalizing c d with
  | nil => rfl
  | cons l ls ih => rw [List.flatMap_cons, Lines.bitsTaken_append, bitEvents_bitsTaken, bitEvents_after, ih]; rfl

theorem flatMap_bitEvents_wireConditions (env : Nat → EnvLevels) (c d : Level) (ls : List Level) :
    Lines.wireConditions env (drivenLines c d) (ls.flatMap bitEvents) = [] := by
  induction ls generalizing env c d with
  | nil => rfl
  | cons l ls ih =>
    rw [List.flatMap_cons, Lines.wireConditions_append, bitEvents_wireConditions, bitEvents_after, ih]
    rfl

/-- The turnaround raises DIO with CLK low, and sets its latch with CLK high only while DIO is released, so the engine's own
levels make no condition. -/
theorem turnaroundEvents_conditions (c d : Level) (v : Int) :
    (drivenLines c d).conditions (turnaroundEvents v) = [] := by
  by_cases hv : v = 0
  · subst hv
    cases c <;> cases d <;> rfl
  · rw [turnaroundEvents_of_no_ack hv]
    cases c <;> cases d <;> rfl

/-- At the clock's rising edge in the turnaround the receiver finds the released high level (R96). -/
theorem turnaroundEvents_bitsTaken (c d : Level) (v : Int) :
    (drivenLines c d).bitsTaken (turnaroundEvents v) = [some true] := by
  by_cases hv : v = 0
  · subst hv
    cases c <;> rfl
  · rw [turnaroundEvents_of_no_ack hv]
    cases c <;> rfl

/-- Settles O28: each data bit is taken at its clock edge and the turnaround's edge takes the released level; with CLK high
the engine only releases DIO and takes it back. -/
theorem wbyteSendsBitsLeastSignificantFirst : Obligations.WbyteSendsBitsLeastSignificantFirst := by
  intro s b hp hc hcd hd hdd hok
  obtain ⟨t, ht, htr⟩ := exec_wbyte_trace (b := b) hp hc hd rfl hok
  refine ⟨t, _, ht, htr, ?_⟩
  obtain ⟨c', d', hafter⟩ := flatMap_bitEvents_after s.clk.lat s.dio.lat (byteBits b)
  rw [State.lines_of_driven hc hcd hd hdd, byteWriteEvents_eq, Lines.conditions_append, Lines.bitsTaken_append, hafter,
    flatMap_bitEvents_conditions, flatMap_bitEvents_bitsTaken, turnaroundEvents_conditions, turnaroundEvents_bitsTaken]
  exact ⟨rfl, rfl⟩

/-! ### The acknowledgment window on the wire -/

/-- A byte write shows the conditions of its turnaround only: the environment is asked from event 40 on. -/
theorem byteWriteEvents_wireConditions (env : Nat → EnvLevels) (c d : Level) (b : Byte) (v : Int) :
    ∃ c' d', Lines.wireConditions env (drivenLines c d) (byteWriteEvents b v) =
      Lines.wireConditions (fun n => env (n + 40)) (drivenLines c' d') (turnaroundEvents v) := by
  obtain ⟨c', d', hafter⟩ := flatMap_bitEvents_after c d (byteBits b)
  refine ⟨c', d', ?_⟩
  obtain ⟨hlen, -, -⟩ := flatMap_bitEvents_counts (byteBits b)
  rw [byteWriteEvents_eq, Lines.wireConditions_append, flatMap_bitEvents_wireConditions, hafter, hlen]
  rfl

/-- A receiver that holds DIO low from event 5 on, the sample, makes one falling edge: against the engine's
high level at the release where it pulled before, and in the wait otherwise (R103). -/
theorem turnaroundEvents_wireConditions_ack {env : Nat → EnvLevels} (henv : ∀ n, 4 < n → (env n).dio = false)
    (c d : Level) : Lines.wireConditions env (drivenLines c d) (turnaroundEvents 0) = [.start] := by
  have h5 := henv 5 (by decide)
  have h6 := henv 6 (by decide)
  have h7 := henv 7 (by decide)
  have h8 := henv 8 (by decide)
  rw [turnaroundEvents_of_ack]
  cases h4 : (env 4).dio <;>
    simp [Lines.wireConditions, wireEdge, Lines.levels, Lines.after, Lines.update, PinCfg.driven, drivenLines, h4, h5, h6,
      h7, h8]

theorem turnaroundEvents_wireConditions_no_ack {env : Nat → EnvLevels} (henv : ∀ n, (env n).dio = true) (c d : Level)
    {v : Int} (hv : v ≠ 0) : Lines.wireConditions env (drivenLines c d) (turnaroundEvents v) = [] := by
  rw [turnaroundEvents_of_no_ack hv]
  simp [Lines.wireConditions, wireEdge, Lines.levels, Lines.after, Lines.update, PinCfg.driven, drivenLines, henv]

/-- Settles O30: only the turnaround shows conditions, and there the receiver's pulse makes one falling edge; the hold and
the return to output keep its level. -/
theorem acknowledgmentPulseOnTheWire : Obligations.AcknowledgmentPulseOnTheWire := by
  intro s b env hp hc hcd hd hdd
  rw [State.lines_of_driven hc hcd hd hdd]
  refine ⟨fun j hj hv hok henv => ?_, fun hv hok henv => ?_⟩
  · obtain ⟨t, ht, htr⟩ := exec_wbyte_trace (b := b) hp hc hd hv (by rwa [if_pos rfl])
    obtain ⟨c', d', hw⟩ := byteWriteEvents_wireConditions env s.clk.lat s.dio.lat b 0
    refine ⟨t, _, ht, htr, hw.trans (turnaroundEvents_wireConditions_ack (fun n hn => ?_) c' d')⟩
    rw [henv, decide_eq_false_iff_not]
    omega
  · obtain ⟨t, ht, htr⟩ := exec_wbyte_trace (b := b) hp hc hd rfl (by rwa [if_neg hv])
    obtain ⟨c', d', hw⟩ := byteWriteEvents_wireConditions env s.clk.lat s.dio.lat b (s.envValueAt .dio s.reads)
    exact ⟨t, _, ht, htr, hw.trans (turnaroundEvents_wireConditions_no_ack (fun n => henv _) c' d' hv)⟩

end Sys2Proof.Machine
end

section
/-! PROOFS. The acknowledgment window (R99, R188): DIO is released and CLK's latch high at micro-steps 44 to 48 of every byte
write. -/

namespace Sys2Proof.Machine

/-- What holds on arrival at micro-step j of a byte write: CLK's latch is high from 43 to 48, and DIO an input from 44 to 48
(R94, R99). -/
structure State.AckWindow (s : State) (j : Nat) : Prop where
  clk_high : 43 ≤ j → j ≤ 48 → s.clk.lat = true
  dio_inp : 44 ≤ j → j ≤ 48 → s.dio.dir = .inp

theorem State.AckWindow.of_lt {s : State} {j : Nat} (hj : j < 43) : s.AckWindow j :=
  ⟨fun _ => by omega, fun _ => by omega⟩

theorem State.AckWindow.of_gt {s : State} {j : Nat} (hj : 48 < j) : s.AckWindow j :=
  ⟨fun _ => by omega, fun _ => by omega⟩

/-- Skipping the hold, from micro-step 46 to 47, changes no pin. -/
theorem State.AckWindow.skip_hold {s : State} (h : s.AckWindow 46) : s.AckWindow 47 :=
  ⟨fun _ _ => h.clk_high (by decide) (by decide), fun _ _ => h.dio_inp (by decide) (by decide)⟩

theorem State.AckWindow.arrive {s : State} {j : Nat} (h : s.AckWindow j) (i : Instr) (k : Nat) :
    (s.arrive i k).AckWindow j :=
  ⟨by simpa using h.clk_high, by simpa using h.dio_inp⟩

/-- The primitives at micro-steps 44 to 47 of a byte write (R94). -/
def windowPrims : List Prim := [.wait .tAck, .sample, .hold]

theorem byteWriteOps_windowPrims {b : Byte} {j : Nat} {op : MicroOp} (hop : (byteWriteOps b)[j]? = some op)
    (hj : 44 ≤ j) (hj' : j ≤ 47) : op.prim ∈ windowPrims := by
  obtain rfl | rfl | rfl | rfl : j = 44 ∨ j = 45 ∨ j = 46 ∨ j = 47 := by omega
  all_goals
    cases hop
    decide

/-- A call in the window names DIO and leaves its direction. -/
theorem State.callOf_windowPrims {s : State} {pr : Prim} (h : pr ∈ windowPrims) {p : Pin} {c : CallKind}
    (hc : s.callOf pr = some (p, c)) : p = .dio ∧ ∀ q, (callEffect c q).dir = q.dir := by
  simp only [windowPrims, List.mem_cons, List.not_mem_nil, or_false] at h
  obtain rfl | rfl | rfl := h
  · cases hc
  · cases hc
    exact ⟨rfl, fun _ => rfl⟩
  · simp only [State.callOf] at hc
    split at hc <;> cases hc
    exact ⟨rfl, fun _ => rfl⟩

/-- The primitives of the window leave CLK and the direction of DIO. -/
theorem State.doPrim_windowPrims {s u : State} {pr : Prim} (h : pr ∈ windowPrims) (hu : s.doPrim pr = .done () u) :
    u.clk = s.clk ∧ u.dio.dir = s.dio.dir := by
  obtain ⟨-, hpin⟩ | ⟨p, c, hc, hpin, hother⟩ := State.doPrim_pin hu
  · exact ⟨hpin .clk, congrArg PinCfg.dir (hpin .dio)⟩
  · obtain ⟨rfl, hdir⟩ := State.callOf_windowPrims h hc
    exact ⟨hother .clk (by decide), (congrArg PinCfg.dir hpin).trans (hdir _)⟩

/-- A micro-step of a byte write keeps the window: 42 raises CLK, 43 releases DIO, and 44 to 47 change neither. -/
theorem State.AckWindow.doPrim {s u : State} {b : Byte} {j : Nat} {op : MicroOp} (h : s.AckWindow j)
    (hop : (byteWriteOps b)[j]? = some op) (hu : s.doPrim op.prim = .done () u) : u.AckWindow (j + 1) := by
  have hj : j < 42 ∨ j = 42 ∨ j = 43 ∨ (44 ≤ j ∧ j ≤ 47) ∨ 47 < j := by omega
  obtain hj | rfl | rfl | ⟨hj, hj'⟩ | hj := hj
  · exact .of_lt (by omega)
  · cases hop
    have hclk := (State.platformCall_pin hu).1
    exact ⟨fun _ _ => congrArg PinCfg.lat hclk, fun _ => by omega⟩
  · cases hop
    obtain ⟨hdio, hother⟩ := State.platformCall_pin hu
    exact ⟨fun _ _ => (congrArg PinCfg.lat (hother .clk (by decide))).trans (h.clk_high (by decide) (by decide)),
      fun _ _ => congrArg PinCfg.dir hdio⟩
  · obtain ⟨hclk, hdio⟩ := State.doPrim_windowPrims (byteWriteOps_windowPrims hop hj hj') hu
    exact ⟨fun _ _ => hclk ▸ h.clk_high (by omega) (by omega), fun _ _ => hdio.trans (h.dio_inp hj (by omega))⟩
  · exact .of_gt (by omega)

/-- The window's invariant of a state: if it stands at a micro-step of a byte write, the window holds there. -/
def State.KeepsAckWindow (s : State) : Prop :=
  ∀ i k b j, s.phase = .busy i k → byteWriteAt i k = some (b, j) → s.AckWindow j

theorem State.keepsAckWindow_of_not_busy {s : State} (h : ∀ i k, s.phase ≠ .busy i k) : s.KeepsAckWindow :=
  fun i k _ _ hp => absurd hp (h i k)

/-- Standing at a position, the invariant asks for the window at that position. -/
theorem State.keepsAckWindow_arrive {s : State} {i : Instr} {k : Nat}
    (h : ∀ b j, byteWriteAt i k = some (b, j) → s.AckWindow j) : (s.arrive i k).KeepsAckWindow := by
  intro i' k' b j hp hb
  rw [State.arrive_phase] at hp
  cases hp
  exact (h b j hb).arrive i k

theorem State.commence_keepsAckWindow (s : State) (i : Instr) : (s.commence i).KeepsAckWindow :=
  State.keepsAckWindow_arrive fun b j hb => .of_lt (by have := byteWriteAt_zero hb; omega)

/-- A primitive leads into the window of the next position. -/
theorem State.KeepsAckWindow.doPrim {s u : State} {i : Instr} {k : Nat} {op : MicroOp} (h : s.KeepsAckWindow)
    (hp : s.phase = .busy i k) (hop : (program i)[k]? = some op) (hu : s.doPrim op.prim = .done () u) {b : Byte} {j : Nat}
    (hb : byteWriteAt i (k + 1) = some (b, j)) : u.AckWindow j := by
  cases j with
  | zero => exact .of_lt (by decide)
  | succ j =>
    have hb' := byteWriteAt_pred hb
    exact (h i k b j hp hb').doPrim (program_of_byteWriteAt hb' ▸ hop) hu

theorem State.KeepsAckWindow.microStep {s : State} {i : Instr} {k : Nat} (h : s.KeepsAckWindow)
    (hp : s.phase = .busy i k) : (s.microStep i k).KeepsAckWindow := by
  cases hop : (program i)[k]? with
  | none =>
    have he : s.microStep i k = s.complete i := by simp [State.microStep, hop]
    rw [he]
    exact State.keepsAckWindow_of_not_busy (by simp)
  | some op =>
    obtain ⟨u, hu, he⟩ | ⟨p, c, -, he⟩ := State.microStep_cases (s := s) hop <;> rw [he]
    · obtain ⟨hhold, -, hk, ha⟩ | ⟨-, hk, ha⟩ | ⟨-, ha⟩ := u.advance_cases (List.getElem?_eq_some_iff.mp hop).1 <;>
        rw [ha]
      · refine State.keepsAckWindow_arrive fun b j hb => ?_
        obtain ⟨d, hd⟩ := byteWriteAt_hold hhold
        cases hb.symm.trans (byteWriteAt_succ hd (by decide))
        exact (h.doPrim hp hop hu hd).skip_hold
      · exact State.keepsAckWindow_arrive fun b j hb => h.doPrim hp hop hu hb
      · exact State.keepsAckWindow_of_not_busy (by simp)
    · exact State.keepsAckWindow_of_not_busy (by simp)

theorem State.KeepsAckWindow.microRun {s : State} (h : s.KeepsAckWindow) (n : Nat) : (s.microRun n).KeepsAckWindow := by
  induction n generalizing s with
  | zero => exact h
  | succ n ih =>
    cases hp : s.phase with
    | busy i k => rw [State.microRun_succ_of_busy hp]; exact ih (h.microStep hp)
    | idle => rwa [State.microRun_of_not_busy (by simp [hp])]
    | halted => rwa [State.microRun_of_not_busy (by simp [hp])]

/-- Settles O29: a command commences outside the window, and every micro-step keeps it. -/
theorem acknowledgmentWindowReleasesDio : Obligations.AcknowledgmentWindowReleasesDio := by
  rintro s t i b n k j rfl hp hb hj hj'
  have hw := (s.commence_keepsAckWindow i).microRun n _ _ b j hp hb
  exact ⟨hw.dio_inp hj hj', hw.clk_high (by omega) hj'⟩

end Sys2Proof.Machine
end

section
/-! PROOFS. Where a command halts (R157, R160): under other outcomes a run makes the same events up to its first failing
call, so a command that completes when nothing fails halts there; and the halt of WBYTE (R109). -/

namespace Sys2Proof.Machine

/-! ### Events and calls -/

theorem Event.isCall_eq_isSome (e : Event) : e.isCall = e.call.isSome := by cases e <;> rfl

theorem eventsBeforeCall_cons_wait {e : Event} (h : e.call = none) (n : Nat) (es : List Event) :
    eventsBeforeCall n (e :: es) = e :: eventsBeforeCall n es := by
  cases n <;> simp [eventsBeforeCall, Event.isCall_eq_isSome, h]

theorem eventsBeforeCall_zero_cons {e : Event} {pc : Pin × CallKind} (h : e.call = some pc) (es : List Event) :
    eventsBeforeCall 0 (e :: es) = [] := by
  simp [eventsBeforeCall, Event.isCall_eq_isSome, h]

theorem eventsBeforeCall_succ_cons {e : Event} {pc : Pin × CallKind} (h : e.call = some pc) (n : Nat)
    (es : List Event) : eventsBeforeCall (n + 1) (e :: es) = e :: eventsBeforeCall n es := by
  simp [eventsBeforeCall, Event.isCall_eq_isSome, h]

/-- The events before a call of a run of events, after events that record no call. -/
theorem eventsBeforeCall_append_of_no_call {es : List Event} (h : ∀ e ∈ es, e.call = none) (n : Nat)
    (fs : List Event) : eventsBeforeCall n (es ++ fs) = es ++ eventsBeforeCall n fs := by
  induction es with
  | nil => rfl
  | cons e es ih =>
    obtain ⟨he, hes⟩ := List.forall_mem_cons.mp h
    rw [List.cons_append, eventsBeforeCall_cons_wait he, ih hes, List.cons_append]

theorem eventCalls_append_of_no_call {es : List Event} (h : ∀ e ∈ es, e.call = none) (fs : List Event) :
    eventCalls (es ++ fs) = eventCalls fs := by
  rw [eventCalls, List.filterMap_append, List.filterMap_eq_nil_iff.mpr h]
  rfl

theorem eventCalls_cons {e : Event} {pc : Pin × CallKind} (h : e.call = some pc) (es : List Event) :
    eventCalls (e :: es) = pc :: eventCalls es := List.filterMap_cons_some h

/-! ### What a completed primitive records -/

/-- The events that record a primitive's call: one for a call, and none that names a call where it makes none. -/
inductive Recorded : Option (Pin × CallKind) → List Event → Prop
  | call {e : Event} {pc : Pin × CallKind} (h : e.call = some pc) : Recorded (some pc) [e]
  | noCall {es : List Event} (h : ∀ e ∈ es, e.call = none) : Recorded none es

/-- From s to t the engine made and counted the call, if any, and appended its record. -/
structure State.Records (s : State) (call : Option (Pin × CallKind)) (t : State) : Prop where
  events : ∃ es, t.trace = s.trace ++ es ∧ Recorded call es
  calls : t.calls = s.calls + call.toList.length

theorem State.platformCall_records {s t : State} {p : Pin} {c : CallKind} {q : PinCfg} {e : Event}
    (he : e.call = some (p, c)) (h : s.platformCall p c q e = .done () t) : s.Records (some (p, c)) t := by
  obtain ⟨-, h2⟩ | ⟨-, h2⟩ := s.platformCall_cases p c q e <;> rw [h2] at h <;> cases h
  exact ⟨⟨[e], by simp, .call he⟩, by simp⟩

theorem State.pinRead_records {s t : State} {p : Pin} {v : Int} (h : s.pinRead p = .done v t) :
    s.Records (some (p, .read)) t := by
  obtain ⟨-, h2⟩ | ⟨-, h2⟩ := s.pinRead_cases p <;> rw [h2] at h <;> cases h
  exact ⟨⟨[.read p (s.readValue p)], by simp, .call rfl⟩, by simp⟩

/-- A primitive that completes records the call it makes (R81). -/
theorem State.doPrim_records {s t : State} {pr : Prim} (h : s.doPrim pr = .done () t) : s.Records (s.callOf pr) t := by
  cases pr with
  | exportPin p => exact State.platformCall_records rfl h
  | setDir p m => exact State.platformCall_records rfl h
  | write p l => exact State.platformCall_records rfl h
  | writeBit => exact State.platformCall_records rfl h
  | read p =>
    simp only [State.doPrim] at h
    split at h <;> cases h
    next hr =>
      have hrec := State.pinRead_records hr
      exact ⟨hrec.events, hrec.calls⟩
  | sample =>
    simp only [State.doPrim] at h
    split at h <;> cases h
    next hr =>
      have hrec := State.pinRead_records hr
      exact ⟨hrec.events, hrec.calls⟩
  | hold =>
    simp only [State.doPrim] at h
    split at h
    next ha =>
      rw [State.callOf, if_pos ha]
      exact State.platformCall_records rfl h
    next ha =>
      cases h
      rw [State.callOf, if_neg ha]
      exact ⟨⟨[], by simp, .noCall (by simp)⟩, rfl⟩
  | wait b =>
    cases h
    exact ⟨⟨[.wait b], rfl, .noCall (by simp [Event.call])⟩, rfl⟩

/-! ### The same primitive under other outcomes -/

/-- The state with other outcomes written down (R79; log entry 2). -/
def State.withScript (s : State) (cs : List CallOutcome) : State := { s with callScript := cs }

@[simp] theorem State.withScript_pin (s : State) (cs : List CallOutcome) (p : Pin) :
    (s.withScript cs).pin p = s.pin p := by cases p <;> rfl

@[simp] theorem State.withScript_calls (s : State) (cs : List CallOutcome) : (s.withScript cs).calls = s.calls := rfl

theorem State.setPin_withScript (s : State) (cs : List CallOutcome) (p : Pin) (q : PinCfg) :
    (s.withScript cs).setPin p q = (s.setPin p q).withScript cs := by cases p <;> rfl

theorem State.regAct_withScript (s : State) (cs : List CallOutcome) (a : RegAct) :
    (s.withScript cs).regAct a = (s.regAct a).withScript cs := by cases a <;> rfl

theorem State.drawRead_withScript (s : State) (cs : List CallOutcome) (p : Pin) :
    (s.withScript cs).drawRead p = (s.drawRead p).withScript cs := by
  simp only [State.drawRead, State.withScript_pin]
  split <;> rfl

theorem State.readValue_withScript (s : State) (cs : List CallOutcome) (p : Pin) :
    (s.withScript cs).readValue p = s.readValue p := by cases p <;> rfl

theorem State.platformCall_withScript {s t : State} {cs : List CallOutcome} {p : Pin} {c : CallKind} {q : PinCfg}
    {e : Event} (h : s.platformCall p c q e = .done () t) (hf : (s.withScript cs).callFails p c = false) :
    (s.withScript cs).platformCall p c q e = .done () (t.withScript cs) := by
  obtain ⟨-, h2⟩ | ⟨-, h2⟩ := s.platformCall_cases p c q e <;> rw [h2] at h <;> cases h
  rw [State.platformCall_done _ _ _ _ _ hf, State.setPin_withScript]
  rfl

theorem State.pinRead_withScript {s t : State} {cs : List CallOutcome} {p : Pin} {v : Int}
    (h : s.pinRead p = .done v t) (hf : (s.withScript cs).callFails p .read = false) :
    (s.withScript cs).pinRead p = .done v (t.withScript cs) := by
  obtain ⟨-, h2⟩ | ⟨-, h2⟩ := s.pinRead_cases p <;> rw [h2] at h <;> cases h
  rw [State.pinRead_done hf, State.readValue_withScript, State.setPin_self, ← State.drawRead_withScript]
  rfl

/-- A primitive that completes does the same under other outcomes, unless its call fails there. -/
theorem State.doPrim_withScript {s t : State} {cs : List CallOutcome} {pr : Prim} (h : s.doPrim pr = .done () t)
    (hf : ∀ p c, s.callOf pr = some (p, c) → (s.withScript cs).callFails p c = false) :
    (s.withScript cs).doPrim pr = .done () (t.withScript cs) := by
  cases pr with
  | exportPin p => cases p <;> exact State.platformCall_withScript h (hf _ _ rfl)
  | setDir p m => cases p <;> exact State.platformCall_withScript h (hf _ _ rfl)
  | write p l => cases p <;> exact State.platformCall_withScript h (hf _ _ rfl)
  | writeBit => exact State.platformCall_withScript h (hf _ _ rfl)
  | read p =>
    simp only [State.doPrim] at h ⊢
    split at h <;> cases h
    next hr =>
      rw [State.pinRead_withScript hr (hf _ _ rfl)]
      rfl
  | sample =>
    simp only [State.doPrim] at h ⊢
    split at h <;> cases h
    next hr =>
      rw [State.pinRead_withScript hr (hf _ _ rfl)]
      rfl
  | hold =>
    have hack : (s.withScript cs).acked = s.acked := rfl
    simp only [State.doPrim, hack] at h ⊢
    split at h
    next ha =>
      rw [if_pos ha]
      exact State.platformCall_withScript h (hf _ _ (if_pos ha))
    next ha =>
      cases h
      rw [if_neg ha]
  | wait b =>
    cases h
    rfl

/-- A primitive that completes also completes under other outcomes where the platform answers its call OK. -/
theorem State.doPrim_withScript_ok {s t : State} {cs : List CallOutcome} {pr : Prim} (h : s.doPrim pr = .done () t)
    (ho : ∀ p c, s.callOf pr = some (p, c) → (s.withScript cs).outcomeAt p c s.calls = .ok) :
    (s.withScript cs).doPrim pr = .done () (t.withScript cs) := by
  refine State.doPrim_withScript h fun p c hc => State.callFails_false _ _ _ (fun hneeds => ?_) (ho p c hc)
  rw [State.withScript_pin]
  by_contra hexp
  have hf := State.doPrim_fails hc (State.callFails_of_unexported_or_fail hneeds (.inl (by simpa using hexp)))
  rw [h] at hf
  cases hf

/-! ### The halt of a run -/

/-- t is where a run from s halts at call number n of the events es: its trace, and the call the diagnostic names. -/
structure State.FailsAt (s : State) (es : List Event) (n : Nat) (t : State) : Prop where
  trace : t.trace = s.trace ++ eventsBeforeCall n es
  diag : t.diag = (eventCalls es)[n]?

/-- A run that halts after an event that records no call. -/
theorem State.FailsAt.of_no_call {s w t : State} {ds fs : List Event} {n : Nat} (h : w.FailsAt fs n t)
    (hw : w.trace = s.trace ++ ds) (hds : ∀ e ∈ ds, e.call = none) : s.FailsAt (ds ++ fs) n t where
  trace := by rw [h.trace, hw, eventsBeforeCall_append_of_no_call hds, List.append_assoc]
  diag := by rw [h.diag, eventCalls_append_of_no_call hds]

/-- A run that halts after the record of a call. -/
theorem State.FailsAt.of_call {s w t : State} {e : Event} {pc : Pin × CallKind} {fs : List Event} {n : Nat}
    (h : w.FailsAt fs n t) (hw : w.trace = s.trace ++ [e]) (he : e.call = some pc) : s.FailsAt (e :: fs) (n + 1) t where
  trace := by rw [h.trace, hw, eventsBeforeCall_succ_cons he, List.append_assoc, List.singleton_append]
  diag := by rw [h.diag, eventCalls_cons he, List.getElem?_cons_succ]

/-- The fault of the call that the first event records. -/
theorem State.FailsAt.raiseFatal {s r : State} {e : Event} {p : Pin} {c : CallKind} (hr : r.trace = s.trace)
    (he : e.call = some (p, c)) (fs : List Event) : s.FailsAt (e :: fs) 0 (r.raiseFatal p c) where
  trace := by rw [State.raiseFatal_trace, hr, eventsBeforeCall_zero_cons he, List.append_nil]
  diag := by rw [State.raiseFatal_diag, eventCalls_cons he, List.getElem?_cons_zero]

/-- A run that completes with the events es halts, under outcomes whose call number n is the first to fail, at that
call. -/
theorem State.runSeq_withScript_fails {i : Instr} {ops : List MicroOp} {k : Nat} {s u : State} {es : List Event}
    (h : State.runSeq i k ops s = .done () u) (htr : u.trace = s.trace ++ es) {cs : List CallOutcome} {n : Nat}
    (hn : n < (eventCalls es).length) (hok : (s.withScript cs).answersOk n)
    (hfail : ∀ p c, (s.withScript cs).outcomeAt p c (s.calls + n) = .fail) :
    ∃ t, State.runSeq i k ops (s.withScript cs) = .fatal t ∧ s.FailsAt es n t := by
  induction ops generalizing k s es n with
  | nil =>
    cases h
    simp [eventCalls, List.self_eq_append_right.mp htr] at hn
  | cons op rest ih =>
    obtain ⟨w, hw, hrest⟩ := State.runSeq_cons_inv h
    obtain ⟨fs, hfs, -⟩ := (State.runSeq_done_progress hrest).events
    obtain ⟨⟨ds, hds, hrec⟩, hcalls⟩ := State.doPrim_records hw
    rw [State.regAct_trace, State.enter_trace] at hds
    rw [State.regAct_calls, State.enter_calls] at hcalls
    obtain rfl : ds ++ fs = es := by simpa [hfs, hds] using htr
    have hop : ((s.withScript cs).enter i k).doOp op = (((s.enter i k).regAct op.act).withScript cs).doPrim op.prim :=
      congrArg (State.doPrim · op.prim) (State.regAct_withScript (s.enter i k) cs op.act)
    generalize hc : ((s.enter i k).regAct op.act).callOf op.prim = call at hrec hcalls
    cases hrec with
    | noCall hno =>
      have hd := State.doPrim_withScript_ok (cs := cs) hw (by simp [hc])
      rw [State.runSeq_cons_done (hop.trans hd)]
      have hcalls : w.calls = s.calls := hcalls
      obtain ⟨t, ht, hft⟩ := ih hrest hfs (by rwa [eventCalls_append_of_no_call hno] at hn)
        (State.answersOk_after hok 0 n rfl hcalls (by omega)) (by rw [hcalls]; exact hfail)
      exact ⟨t, ht, hft.of_no_call hds hno⟩
    | @call e pc he =>
      obtain ⟨p, c⟩ := pc
      cases n with
      | zero =>
        have hf : (((s.enter i k).regAct op.act).withScript cs).callFails p c = true := by
          rw [State.callFails_eq_true_iff, State.withScript_calls, State.regAct_calls]
          exact .inr (hfail p c)
        have htrace : (((s.enter i k).regAct op.act).withScript cs).trace = s.trace :=
          State.regAct_trace (s.enter i k) op.act
        exact ⟨_, State.runSeq_cons_fatal (hop.trans (State.doPrim_fails hc hf)), .raiseFatal htrace he fs⟩
      | succ n =>
        have hd := State.doPrim_withScript_ok (cs := cs) hw fun p c _ => by
          rw [State.regAct_calls]
          exact hok 0 (by omega) p c
        rw [State.runSeq_cons_done (hop.trans hd)]
        have hcalls : w.calls = s.calls + 1 := hcalls
        obtain ⟨t, ht, hft⟩ := ih hrest hfs (by simpa [eventCalls_cons he] using hn)
          (State.answersOk_after hok 1 n rfl hcalls (by omega))
          (by rw [hcalls, Nat.add_assoc, Nat.add_comm 1]; exact hfail)
        exact ⟨t, ht, hft.of_call hds he⟩

/-- A run that halts halts as R160 says, with its trace and the call the diagnostic names known. -/
theorem State.FailsAt.haltsAt {i : Instr} {ops : List MicroOp} {k : Nat} {s t : State} {es : List Event} {n : Nat}
    (h : s.FailsAt es n t) (hrun : State.runSeq i k ops s = .fatal t) : s.HaltsAt es n t := by
  have hsame := State.runSeq_sameHost i k ops s
  rw [hrun] at hsame
  have hhalted := State.runSeq_fatal_halted hrun
  obtain ⟨u, p, c, hpg, rfl⟩ := State.runSeq_fatal_raised hrun
  obtain ⟨fs, hfs, hpin⟩ := hpg.raiseFatal_pin_other p c
  obtain rfl : fs = eventsBeforeCall n es := List.append_cancel_left (hfs.symm.trans h.trace)
  exact ⟨hhalted, h.trace, hsame.replies, p, c, by rw [← h.diag]; simp, by simp, by simp, hpin⟩

/-- Outcomes that answer OK to the next m calls. -/
def State.okScript (s : State) (m : Nat) : List CallOutcome := List.replicate (s.calls + m) .ok

theorem State.okScript_answersOk (s : State) (m : Nat) : (s.withScript (s.okScript m)).answersOk m :=
  State.answersOk_of_script _ _ fun _ hj => List.getElem?_replicate_of_lt (Nat.add_lt_add_left hj s.calls)

/-- A command that completes with the events es when nothing fails halts at its first failing call (R157, R160). -/
theorem exec_haltsAt {i : Instr} {s u : State} {es : List Event} {m n : Nat} (hw : i.wellFormed = true)
    (hp : s.phase = .idle) (hrun : State.runSeq i 0 (program i) (s.withScript (s.okScript m)) = .done () u)
    (htr : u.trace = s.trace ++ es) (hn : n < (eventCalls es).length) (hok : s.answersOk n)
    (hfail : ∀ p c, s.outcomeAt p c (s.calls + n) = .fail) : ∃ t, exec i s = .next t ∧ s.HaltsAt es n t := by
  obtain ⟨t, ht, hft⟩ := State.runSeq_withScript_fails (cs := s.callScript) hrun htr hn hok hfail
  have hft' : s.FailsAt es n t := ⟨hft.trace, hft.diag⟩
  exact ⟨t, exec_of_runSeq_fatal hw hp ht, hft'.haltsAt ht⟩

/-! ### WBYTE -/

/-- The cause codes of a byte write's calls, in order: the direction sets stand at 27 and at the end, the sample at 28
(R108, R109). -/
def byteWriteCallCode (v : Int) (n : Nat) : FaultCode :=
  if n = 27 ∨ n = (if v = 0 then 30 else 29) then .dirFail else if n = 28 then .readFail else .writeFail

theorem byteWriteEvents_callCodes (b : Byte) (v : Int) :
    (eventCalls (byteWriteEvents b v)).map (fun pc => callCode pc.2) =
      (List.range (if v = 0 then 31 else 30)).map (byteWriteCallCode v) := by
  by_cases hv : v = 0
  · subst hv
    rfl
  · have hcode : byteWriteCallCode v = byteWriteCallCode 1 := by
      funext n
      simp [byteWriteCallCode, hv]
    rw [byteWriteEvents_eq, turnaroundEvents_of_no_ack hv, if_neg hv, hcode]
    rfl

/-- Settles O31: the byte write completes when nothing fails, and its call number n fixes the code. -/
theorem wbyteHaltsAtTheFailingCall : Obligations.WbyteHaltsAtTheFailingCall := by
  intro s b v n hp hc hd hv hn hok hfail
  have hcodes := byteWriteEvents_callCodes b v
  have hlen : (eventCalls (byteWriteEvents b v)).length = if v = 0 then 31 else 30 := by
    simpa using congrArg List.length hcodes
  have hrun :=
    State.runSeq_byteWrite (.wbyte b) 0 [] (s.withScript (s.okScript _)) b hc hd v (s.okScript_answersOk _) hv
  rw [List.append_nil] at hrun
  obtain ⟨t, ht, hh⟩ := exec_haltsAt rfl hp hrun rfl (hlen ▸ hn) hok hfail
  obtain ⟨p, c, hcall, -, hcode, -⟩ := hh.call
  refine ⟨t, ht, hh.halted.1, hh.halted.2, hh.trace, hh.replies, ?_, hh⟩
  have hn' := congrArg (·[n]?) hcodes
  simpa [hcall, hn, hcode, byteWriteCallCode] using hn'

end Sys2Proof.Machine
end

section
/-! PROOFS. START and STOP (spec/42_framing.md): the four writes of each (R113, R117), the conditions they make on the wire
(R114, R115, R118), where they halt (R120), and the conditions the host can make by accident (R187). -/

namespace Sys2Proof.Machine

/-! ### The START and the STOP that complete -/

/-- A command whose micro-program completes hands over its reply. -/
theorem exec_of_runSeq_done {i : Instr} {s u : State} (hw : i.wellFormed = true) (hp : s.phase = .idle)
    (hrun : State.runSeq i 0 (program i) s = .done () u) : exec i s = .next (u.complete i) := by
  rw [exec_wellFormed hw, State.runCommand_idle hp, State.runProgram_eq_finish, hrun]
  rfl

/-- `Start()` on its own (R113, R115). -/
theorem State.runSeq_startOps (i : Instr) (k : Nat) {s : State} (hc : s.clk.exp = true) (hd : s.dio.exp = true)
    (hok : s.answersOk 4) :
    State.runSeq i k startOps s = .done () { s with
      clk := { s.clk with lat := false }, dio := { s.dio with lat := false }, trace := s.trace ++ startEvents,
      calls := s.calls + 4, phase := .busy i (k + 3) } := by
  rw [← List.append_nil startOps, State.runSeq_start i k [] s hc hd hok, State.runSeq_nil]

/-- `Stop()` on its own (R117, R119). -/
theorem State.runSeq_stopOps (i : Instr) (k : Nat) {s : State} (hc : s.clk.exp = true) (hd : s.dio.exp = true)
    (hok : s.answersOk 4) :
    State.runSeq i k stopOps s = .done () { s with
      clk := { s.clk with lat := true }, dio := { s.dio with lat := true }, trace := s.trace ++ stopEvents,
      calls := s.calls + 4, xfer := none, phase := .busy i (k + 3) } := by
  rw [← List.append_nil stopOps, State.runSeq_stop i k [] s hc hd hok, State.runSeq_nil]

/-- Settles O20: the run of `Start()`, and its completion with the reply NONE. -/
theorem startMakesItsFourWrites : Obligations.StartMakesItsFourWrites := by
  intro s hp hc hd hok
  rw [exec_of_runSeq_done rfl hp (State.runSeq_startOps .start 0 hc hd hok)]
  simp [State.complete, State.replyFor, startEvents, hp]

/-- Settles O21: the run of `Stop()`, and its completion with the reply NONE. -/
theorem stopMakesItsFourWrites : Obligations.StopMakesItsFourWrites := by
  intro s hp hc hd hok
  rw [exec_of_runSeq_done rfl hp (State.runSeq_stopOps .stop 0 hc hd hok)]
  simp [State.complete, State.replyFor, stopEvents, hp]

theorem exec_start_trace {s : State} (hp : s.phase = .idle) (hc : s.clk.exp = true) (hd : s.dio.exp = true)
    (hok : s.answersOk 4) : ∃ t, exec .start s = .next t ∧ t.trace = s.trace ++ startEvents :=
  ⟨_, startMakesItsFourWrites s hp hc hd hok, rfl⟩

theorem exec_stop_trace {s : State} (hp : s.phase = .idle) (hc : s.clk.exp = true) (hd : s.dio.exp = true)
    (hok : s.answersOk 4) : ∃ t, exec .stop s = .next t ∧ t.trace = s.trace ++ stopEvents :=
  ⟨_, stopMakesItsFourWrites s hp hc hd hok, rfl⟩

/-! ### The conditions of START and STOP -/

theorem startEvents_after (c d : Level) : startEvents.foldl Lines.after (drivenLines c d) = drivenLines false false := rfl

theorem stopEvents_after (c d : Level) : stopEvents.foldl Lines.after (drivenLines c d) = drivenLines true true := rfl

/-- DIO falls with CLK high, and before it rises there where it was low (R115). -/
theorem startEvents_conditions (c d : Level) :
    (drivenLines c d).conditions startEvents = if d then [.start] else [.stop, .start] := by
  cases c <;> cases d <;> rfl

/-- DIO falls with CLK low and rises with CLK high (R118). -/
theorem stopEvents_conditions (c d : Level) : (drivenLines c d).conditions stopEvents = [.stop] := by
  cases c <;> cases d <;> rfl

/-- The engine drives both lines throughout, so the environment adds no edge to those of `startEvents_conditions`. -/
theorem startEvents_wireConditions (env : Nat → EnvLevels) (c d : Level) :
    Lines.wireConditions env (drivenLines c d) startEvents = if d then [.start] else [.stop, .start] := by
  cases c <;> cases d <;> rfl

theorem stopEvents_wireConditions (env : Nat → EnvLevels) (c d : Level) :
    Lines.wireConditions env (drivenLines c d) stopEvents = [.stop] := by
  cases c <;> cases d <;> rfl

/-- Settles O22: the four events of START on two driven lines. -/
theorem startMakesAStartCondition : Obligations.StartMakesAStartCondition := by
  intro s hp hc hcd hd hdd hok
  obtain ⟨t, ht, htr⟩ := exec_start_trace hp hc hd hok
  exact ⟨t, _, ht, htr, by rw [State.lines_of_driven hc hcd hd hdd, startEvents_conditions]⟩

/-- Settles O23: the four events of STOP on two driven lines. -/
theorem stopMakesAStopCondition : Obligations.StopMakesAStopCondition := by
  intro s hp hc hcd hd hdd hok
  obtain ⟨t, ht, htr⟩ := exec_stop_trace hp hc hd hok
  exact ⟨t, _, ht, htr, by rw [State.lines_of_driven hc hcd hd hdd, stopEvents_conditions]⟩

/-! ### The halt of START and STOP -/

/-- Where every event is a write, the events before call number n are the first n. -/
theorem eventsBeforeCall_of_writes {es : List Event} (h : ∀ e ∈ es, ∃ p l, e = .write p l) (n : Nat) :
    eventsBeforeCall n es = es.take n := by
  induction es generalizing n with
  | nil => cases n <;> rfl
  | cons e es ih =>
    obtain ⟨⟨p, l, rfl⟩, hes⟩ := List.forall_mem_cons.mp h
    cases n with
    | zero => rfl
    | succ n => rw [eventsBeforeCall_succ_cons rfl, ih hes, List.take_succ_cons]

/-- Where every event is a write, every call has the code WRITE_FAIL (R161). -/
theorem callCode_of_writes {es : List Event} (h : ∀ e ∈ es, ∃ p l, e = .write p l) {p : Pin} {c : CallKind}
    (hc : (p, c) ∈ eventCalls es) : callCode c = .writeFail := by
  obtain ⟨e, he, hec⟩ := List.mem_filterMap.mp hc
  obtain ⟨q, l, rfl⟩ := h e he
  cases hec
  rfl

/-- A command that completes with writes alone when nothing fails halts at its first failing call with WRITE_FAIL, after the
writes before it (R120, R157). -/
theorem exec_halts_of_writes {i : Instr} {s u : State} {es : List Event} {m n : Nat} (hw : i.wellFormed = true)
    (hp : s.phase = .idle) (hrun : State.runSeq i 0 (program i) (s.withScript (s.okScript m)) = .done () u)
    (htr : u.trace = s.trace ++ es) (hes : ∀ e ∈ es, ∃ p l, e = .write p l) (hn : n < (eventCalls es).length)
    (hok : s.answersOk n) (hfail : ∀ p c, s.outcomeAt p c (s.calls + n) = .fail) :
    ∃ t, exec i s = .next t ∧ t.phase = .halted ∧ t.fatal = true ∧ t.fcode = .writeFail ∧
      t.trace = s.trace ++ es.take n ∧ t.replies = s.replies ∧ s.HaltsAt es n t := by
  obtain ⟨t, ht, hh⟩ := exec_haltsAt hw hp hrun htr hn hok hfail
  obtain ⟨hphase, hfatal⟩ := hh.halted
  obtain ⟨p, c, hcall, -, hcode, -⟩ := hh.call
  refine ⟨t, ht, hphase, hfatal, ?_, ?_, hh.replies, hh⟩
  · exact hcode.trans (callCode_of_writes hes (List.mem_of_getElem? hcall))
  · rw [hh.trace, eventsBeforeCall_of_writes hes]

theorem startEvents_writes : ∀ e ∈ startEvents, ∃ p l, e = .write p l := by simp [startEvents]

theorem stopEvents_writes : ∀ e ∈ stopEvents, ∃ p l, e = .write p l := by simp [stopEvents]

/-- Settles O24: START and STOP complete when nothing fails, and each of their calls is a write. -/
theorem framingHaltsAtTheFailingWrite : Obligations.FramingHaltsAtTheFailingWrite := by
  intro s k hp hc hd hk hok hfail
  constructor
  · exact exec_halts_of_writes rfl hp (State.runSeq_startOps .start 0 hc hd (s.okScript_answersOk 4)) rfl
      startEvents_writes hk hok hfail
  · exact exec_halts_of_writes rfl hp (State.runSeq_stopOps .stop 0 hc hd (s.okScript_answersOk 4)) rfl
      stopEvents_writes hk hok hfail

/-! ### DIO changes with the clock high -/

/-- The line of an exported pin is its latch for an output and the environment's level for an input (R21). -/
theorem PinCfg.driven_getD_of_exported {q : PinCfg} (h : q.exp = true) (l : Level) :
    q.driven.getD l = if q.dir = .out then q.lat else l := by
  cases hd : q.dir <;> simp [PinCfg.driven, h, hd]

/-- With CLK driven high, an event that leaves CLK makes the condition of the change of level of an exported DIO (R114). -/
theorem Lines.wireConditions_dio_event {x : Lines} {e : Event} (hclk : x.clk.driven = some true)
    (hkeep : (x.after e).clk = x.clk) (hx : x.dio.exp = true) (env : Nat → EnvLevels) :
    Lines.wireConditions env x [e] =
      edge (if x.dio.dir = .out then x.dio.lat else (env 0).dio)
        (if (x.after e).dio.dir = .out then (x.after e).dio.lat else (env 1).dio) := by
  have hy : (x.after e).dio.exp = true := x.after_exp e (p := .dio) hx
  rw [← PinCfg.driven_getD_of_exported hx, ← PinCfg.driven_getD_of_exported hy]
  simp [Lines.wireConditions, wireEdge, Lines.levels, hkeep, hclk]

/-- Settles O25: a PDIR or PWR of DIO is one event that leaves CLK, and START and STOP drive both lines throughout. -/
theorem dioChangesWithTheClockHighAreConditions : Obligations.DioChangesWithTheClockHighAreConditions := by
  refine ⟨fun s env hp hclk hd => ⟨fun m ho => ?_, fun l ho => ?_⟩, fun s env hp hc hcd hd hdd hok => ⟨?_, ?_⟩⟩
  · obtain ⟨t, ht, rfl, -⟩ := (pdirSetsTheDirection s .dio m hp).1 hd ho
    exact ⟨_, [.dir .dio m], ht, rfl, Lines.wireConditions_dio_event hclk rfl hd env⟩
  · obtain ⟨t, ht, rfl, -⟩ := (pwrWritesTheLatch s .dio l hp).1 hd ho
    exact ⟨_, [.write .dio l], ht, rfl, Lines.wireConditions_dio_event hclk rfl hd env⟩
  · obtain ⟨t, ht, htr⟩ := exec_start_trace hp hc hd hok
    exact ⟨t, _, ht, htr, by rw [State.lines_of_driven hc hcd hd hdd, startEvents_wireConditions]⟩
  · obtain ⟨t, ht, htr⟩ := exec_stop_trace hp hc hd hok
    exact ⟨t, _, ht, htr, by rw [State.lines_of_driven hc hcd hd hdd, stopEvents_wireConditions]⟩

end Sys2Proof.Machine
end

section
/-! PROOFS. DISP (spec/43_display_sequence.md): its three transactions, each a START, byte writes and a STOP (R122), the run
of the whole program, and the conditions its driven levels make (R128, R187). -/

namespace Sys2Proof.Machine

/-! ### A transaction -/

/-- The calls of a byte write with sample v: one more after an acknowledgment (R108). -/
def byteWriteCalls (v : Int) : Nat := if v = 0 then 31 else 30

theorem byteWriteCalls_eq (v : Int) : byteWriteCalls v = 30 + (if v = 0 then 1 else 0) := by
  unfold byteWriteCalls
  split <;> rfl

/-- The calls of byte writes in a row, the samples being `v n`, `v (n + 1)` and so on. -/
def bytesCalls (v : Nat → Int) (n : Nat) (bs : List Byte) : Nat :=
  ((bs.zipIdx n).map (fun x => byteWriteCalls (v x.2))).sum

/-- The events of byte writes in a row, the samples being `v n`, `v (n + 1)` and so on. -/
def bytesEvents (v : Nat → Int) (n : Nat) (bs : List Byte) : List Event :=
  (bs.zipIdx n).flatMap (fun x => byteWriteEvents x.1 (v x.2))

@[simp] theorem bytesCalls_nil (v : Nat → Int) (n : Nat) : bytesCalls v n [] = 0 := rfl

@[simp] theorem bytesCalls_cons (v : Nat → Int) (n : Nat) (b : Byte) (bs : List Byte) :
    bytesCalls v n (b :: bs) = byteWriteCalls (v n) + bytesCalls v (n + 1) bs := by simp [bytesCalls]

@[simp] theorem bytesEvents_nil (v : Nat → Int) (n : Nat) : bytesEvents v n [] = [] := rfl

@[simp] theorem bytesEvents_cons (v : Nat → Int) (n : Nat) (b : Byte) (bs : List Byte) :
    bytesEvents v n (b :: bs) = byteWriteEvents b (v n) ++ bytesEvents v (n + 1) bs := rfl

/-- The micro-steps of a transaction of the bytes bs (R122). -/
def transactionOps (bs : List Byte) : List MicroOp := startOps ++ (bs.flatMap byteWriteOps ++ stopOps)

/-- The events of a transaction that completes. -/
def transactionEvents (v : Nat → Int) (n : Nat) (bs : List Byte) : List Event :=
  startEvents ++ (bytesEvents v n bs ++ stopEvents)

/-- Byte writes and the STOP after them, followed by anything: DIO is an output once a byte was written (R107, R119). -/
theorem State.runSeq_bytes_stop (i : Instr) (k : Nat) (rest : List MicroOp) (s : State) (bs : List Byte) (v : Nat → Int)
    (hc : s.clk.exp = true) (hd : s.dio.exp = true) (hv : s.envValueAt .dio = v)
    (hok : s.answersOk (bytesCalls v s.reads bs + 4)) :
    State.runSeq i k (bs.flatMap byteWriteOps ++ (stopOps ++ rest)) s =
      State.runSeq i (k + 50 * bs.length + 4) rest { s with
        clk := { s.clk with lat := true },
        dio := { s.dio with dir := if bs = [] then s.dio.dir else .out, lat := true },
        trace := s.trace ++ (bytesEvents v s.reads bs ++ stopEvents),
        calls := s.calls + (bytesCalls v s.reads bs + 4), reads := s.reads + bs.length,
        xfer := none, phase := .busy i (k + 50 * bs.length + 3) } := by
  induction bs generalizing k s with
  | nil =>
    rw [bytesCalls_nil, Nat.zero_add] at hok
    exact State.runSeq_stop i k rest s hc hd hok
  | cons b bs ih =>
    rw [bytesCalls_cons, byteWriteCalls, Nat.add_assoc] at hok
    rw [List.flatMap_cons, List.append_assoc, State.runSeq_byteWrite i k _ s b hc hd (v s.reads)
      (State.answersOk_mono hok (Nat.le_add_right ..)) (congrFun hv s.reads), ih (k + 50) _ ?_ ?_ ?_ ?_]
    · have hk : k + 50 + 50 * bs.length = k + 50 * (bs.length + 1) := by omega
      simp [byteWriteCalls, hk, Nat.add_assoc, Nat.add_comm 1]
    · exact hc
    · exact hd
    · exact hv
    · exact State.answersOk_after hok _ _ rfl rfl (Nat.le_refl _)

/-- A transaction followed by anything. -/
theorem State.runSeq_transaction (i : Instr) (k : Nat) (rest : List MicroOp) (s : State) (bs : List Byte) (v : Nat → Int)
    (hc : s.clk.exp = true) (hd : s.dio.exp = true) (hv : s.envValueAt .dio = v)
    (hok : s.answersOk (bytesCalls v s.reads bs + 8)) :
    State.runSeq i k (transactionOps bs ++ rest) s =
      State.runSeq i (k + 50 * bs.length + 8) rest { s with
        clk := { s.clk with lat := true },
        dio := { s.dio with dir := if bs = [] then s.dio.dir else .out, lat := true },
        trace := s.trace ++ transactionEvents v s.reads bs,
        calls := s.calls + (bytesCalls v s.reads bs + 8), reads := s.reads + bs.length,
        xfer := none, phase := .busy i (k + 50 * bs.length + 7) } := by
  rw [transactionOps, List.append_assoc, List.append_assoc,
    State.runSeq_start i k _ s hc hd (State.answersOk_mono hok (Nat.le_add_left ..)),
    State.runSeq_bytes_stop i (k + 4) rest _ bs v ?_ ?_ ?_ ?_]
  · have hk : k + 4 + 50 * bs.length = k + 50 * bs.length + 4 := by omega
    have hcalls : s.calls + 4 + (bytesCalls v s.reads bs + 4) = s.calls + (bytesCalls v s.reads bs + 8) := by omega
    simp [transactionEvents, hk, hcalls]
  · exact hc
  · exact hd
  · exact hv
  · exact State.answersOk_after hok 4 _ rfl rfl (show 4 + (bytesCalls v s.reads bs + 4) ≤ _ by omega)

/-! ### The whole program -/

/-- DISP's micro-program is its three transactions (R122). -/
theorem dispOps_eq_transactions (c : BitVec 2) (m : Byte) :
    dispOps c m = transactionOps [autoAddressCommand] ++
      (transactionOps [addressByte c, m] ++ (transactionOps [displayControlByte] ++ [])) := by
  simp [dispOps, transactionOps]

/-- The events of DISP are those of its three transactions (R122, R129). -/
theorem dispEvents_eq_transactions (c : BitVec 2) (m : Byte) (v : Nat → Int) (n : Nat) :
    dispEvents c m (v n) (v (n + 1)) (v (n + 2)) (v (n + 3)) =
      transactionEvents v n [autoAddressCommand] ++ (transactionEvents v (n + 1) [addressByte c, m] ++
        transactionEvents v (n + 3) [displayControlByte]) := by
  simp [dispEvents, transactionEvents, autoAddressCommand, addressByte, displayControlByte_eq]

/-- The run of DISP's micro-program when nothing fails (R122, R128, R129). -/
theorem State.runSeq_dispOps (i : Instr) (c : BitVec 2) (m : Byte) (v0 v1 v2 v3 : Int) {s : State}
    (hc : s.clk.exp = true) (hd : s.dio.exp = true) (h0 : s.envValueAt .dio s.reads = v0)
    (h1 : s.envValueAt .dio (s.reads + 1) = v1) (h2 : s.envValueAt .dio (s.reads + 2) = v2)
    (h3 : s.envValueAt .dio (s.reads + 3) = v3)
    (hok : s.answersOk (144 + (if v0 = 0 then 1 else 0) + (if v1 = 0 then 1 else 0) + (if v2 = 0 then 1 else 0) +
      (if v3 = 0 then 1 else 0))) :
    State.runSeq i 0 (dispOps c m) s = .done () { s with
      clk := { s.clk with lat := true }, dio := { s.dio with dir := .out, lat := true },
      trace := s.trace ++ dispEvents c m v0 v1 v2 v3,
      calls := s.calls + 144 + (if v0 = 0 then 1 else 0) + (if v1 = 0 then 1 else 0) + (if v2 = 0 then 1 else 0) +
        (if v3 = 0 then 1 else 0),
      reads := s.reads + 4, xfer := none, phase := .busy i 223 } := by
  subst h0 h1 h2 h3
  rw [dispOps_eq_transactions, dispEvents_eq_transactions,
    State.runSeq_transaction i 0 _ s _ (s.envValueAt .dio) hc hd rfl ?_,
    State.runSeq_transaction i _ _ _ _ (s.envValueAt .dio) ?_ ?_ ?_ ?_,
    State.runSeq_transaction i _ _ _ _ (s.envValueAt .dio) ?_ ?_ ?_ ?_, State.runSeq_nil]
  · simp [byteWriteCalls_eq, Nat.add_assoc]
    omega
  · exact hc
  · exact hd
  · rfl
  · refine State.answersOk_after hok _ _ rfl (Nat.add_assoc ..) ?_
    simp [byteWriteCalls_eq, Nat.add_assoc]
    omega
  · exact hc
  · exact hd
  · rfl
  · refine State.answersOk_after hok _ _ rfl rfl ?_
    simp [byteWriteCalls_eq, Nat.add_assoc]
    omega
  · refine State.answersOk_mono hok ?_
    simp [byteWriteCalls_eq, Nat.add_assoc]
    omega

/-! ### The conditions of the driven levels -/

/-- A byte write leaves CLK driven high, and DIO driven low exactly after an acknowledgment (R107). -/
theorem byteWriteEvents_after (c d : Level) (b : Byte) (v : Int) :
    (byteWriteEvents b v).foldl Lines.after (drivenLines c d) = drivenLines true (decide (v ≠ 0)) := by
  obtain ⟨c', d', hafter⟩ := flatMap_bitEvents_after c d (byteBits b)
  rw [byteWriteEvents_eq, List.foldl_append, hafter]
  by_cases hv : v = 0
  · subst hv
    rfl
  · rw [turnaroundEvents_of_no_ack hv, decide_eq_true hv]
    rfl

/-- The engine's own levels make no condition in a byte write (R95, R99). -/
theorem byteWriteEvents_conditions (c d : Level) (b : Byte) (v : Int) :
    (drivenLines c d).conditions (byteWriteEvents b v) = [] := by
  obtain ⟨c', d', hafter⟩ := flatMap_bitEvents_after c d (byteBits b)
  rw [byteWriteEvents_eq, Lines.conditions_append, flatMap_bitEvents_conditions, hafter, turnaroundEvents_conditions]
  rfl

/-- Byte writes and the STOP after them make one stop condition, whatever the samples, and leave both lines driven high. -/
theorem bytesEvents_stop (c d : Level) (v : Nat → Int) (n : Nat) (bs : List Byte) :
    (drivenLines c d).conditions (bytesEvents v n bs ++ stopEvents) = [.stop] ∧
    (bytesEvents v n bs ++ stopEvents).foldl Lines.after (drivenLines c d) = drivenLines true true := by
  induction bs generalizing c d n with
  | nil => exact ⟨stopEvents_conditions c d, stopEvents_after c d⟩
  | cons b bs ih =>
    rw [bytesEvents_cons, List.append_assoc, Lines.conditions_append, byteWriteEvents_conditions, List.foldl_append,
      byteWriteEvents_after]
    exact ih _ _ _

/-- A transaction makes one start and one stop condition, after a stop condition where DIO was low (R115, R118). -/
theorem transactionEvents_conditions (c d : Level) (v : Nat → Int) (n : Nat) (bs : List Byte) :
    (drivenLines c d).conditions (transactionEvents v n bs) = (if d then [] else [.stop]) ++ [.start, .stop] := by
  rw [transactionEvents, Lines.conditions_append, startEvents_conditions, startEvents_after,
    (bytesEvents_stop false false v n bs).1]
  cases d <;> rfl

theorem transactionEvents_after (c d : Level) (v : Nat → Int) (n : Nat) (bs : List Byte) :
    (transactionEvents v n bs).foldl Lines.after (drivenLines c d) = drivenLines true true := by
  rw [transactionEvents, List.foldl_append, startEvents_after, (bytesEvents_stop false false v n bs).2]

/-- Settles O37: three transactions, of which only the first can find DIO low. -/
theorem dispFramesThreeTransactions : Obligations.DispFramesThreeTransactions := by
  intro s c m hp hc hcd hd hdd hok
  have hrun := State.runSeq_dispOps (.disp c m) c m _ _ _ _ hc hd rfl rfl rfl rfl
    (State.answersOk_mono hok (by split_ifs <;> decide))
  refine ⟨_, _, exec_of_runSeq_done rfl hp hrun, rfl, ?_⟩
  rw [State.lines_of_driven hc hcd hd hdd, dispEvents_eq_transactions c m (s.envValueAt .dio)]
  simp only [Lines.conditions_append, transactionEvents_conditions, transactionEvents_after, if_true,
    List.nil_append, List.append_assoc, List.cons_append]

end Sys2Proof.Machine
end

section
/-! PROOFS. DISP as a whole: the serial command bytes (R124, R125), the counts of its events and calls (R129), the DISP that
completes (R122, R127), and where it halts (R130, R157, R160). -/

namespace Sys2Proof.Machine

/-! ### The serial command bytes -/

/-- Settles O38: the first and the control byte are constants, and a cell number has none of the bits of 0xC0,
so the OR is the sum. -/
theorem serialCommandBytes : Obligations.SerialCommandBytes :=
  ⟨rfl, displayControlByte_eq, rfl, by decide⟩

/-! ### Counts -/

/-- A run of events has one platform call for each event that records one. -/
theorem eventCalls_length (es : List Event) : (eventCalls es).length = es.countP Event.isCall := by
  rw [eventCalls, List.length_filterMap_eq_countP]
  exact List.countP_congr fun e _ => by rw [Event.isCall_eq_isSome]

theorem startEvents_counts : startEvents.length = 4 ∧ startEvents.countP Event.isCall = 4 := ⟨rfl, rfl⟩

theorem stopEvents_counts : stopEvents.length = 4 ∧ stopEvents.countP Event.isCall = 4 := ⟨rfl, rfl⟩

/-- A byte write has 49 events and 30 calls, one more of each after an acknowledgment (R108). -/
theorem byteWriteEvents_counts (b : Byte) (v : Int) :
    (byteWriteEvents b v).length = 49 + (if v = 0 then 1 else 0) ∧
    (byteWriteEvents b v).countP Event.isCall = 30 + (if v = 0 then 1 else 0) := by
  obtain ⟨hlen, hcalls, -⟩ := byteWriteEventCounts b v
  rw [hlen, hcalls]
  constructor <;> split <;> rfl

/-- DISP has 220 events and 144 calls, one more of each for every sample that is an acknowledgment (R129). -/
theorem dispEvents_counts (c : BitVec 2) (m : Byte) (v0 v1 v2 v3 : Int) :
    (dispEvents c m v0 v1 v2 v3).length = 220 + (if v0 = 0 then 1 else 0) + (if v1 = 0 then 1 else 0) +
      (if v2 = 0 then 1 else 0) + (if v3 = 0 then 1 else 0) ∧
    (dispEvents c m v0 v1 v2 v3).countP Event.isCall = 144 + (if v0 = 0 then 1 else 0) + (if v1 = 0 then 1 else 0) +
      (if v2 = 0 then 1 else 0) + (if v3 = 0 then 1 else 0) := by
  simp only [dispEvents, List.length_append, List.countP_append, startEvents_counts, stopEvents_counts,
    byteWriteEvents_counts]
  omega

/-- Settles O36: the acknowledgments among the four samples, counted. -/
theorem dispEventCounts : Obligations.DispEventCounts := by
  intro c m v0 v1 v2 v3
  obtain ⟨hlen, hcalls⟩ := dispEvents_counts c m v0 v1 v2 v3
  simp only [hlen, hcalls, List.countP_cons, List.countP_nil, decide_eq_true_eq]
  omega

/-! ### The DISP that completes, and the DISP that halts -/

/-- Settles O34: the run of the three transactions, and its completion with the reply NONE. -/
theorem dispSendsItsThreeTransactions : Obligations.DispSendsItsThreeTransactions := by
  intro s c m v0 v1 v2 v3 hp hc hd h0 h1 h2 h3 hok
  rw [exec_of_runSeq_done rfl hp (State.runSeq_dispOps (.disp c m) c m v0 v1 v2 v3 hc hd h0 h1 h2 h3 hok)]
  simp [State.complete, State.replyFor, hp]

/-- Settles O35: DISP completes when nothing fails, and so halts at the call of its events that is the first to fail. -/
theorem dispHaltsAtTheFailingCall : Obligations.DispHaltsAtTheFailingCall := by
  intro s c m v0 v1 v2 v3 n hp hc hd h0 h1 h2 h3 hn hok hfail
  have hrun := State.runSeq_dispOps (s := s.withScript (s.okScript _)) (.disp c m) c m v0 v1 v2 v3 hc hd h0 h1 h2 h3
    (s.okScript_answersOk _)
  have hn' : n < (eventCalls (dispEvents c m v0 v1 v2 v3)).length := by
    rwa [eventCalls_length, (dispEvents_counts c m v0 v1 v2 v3).2]
  exact exec_haltsAt rfl hp hrun rfl hn' hok hfail

end Sys2Proof.Machine
end

section
/-! PROOFS. SEGMAP (spec/44_segment_decoder.md): the ROM as the table of R138, the SEGMAP that replies and the one that is
refused, its frame, and the digit a reply was made from. -/

namespace Sys2Proof.Machine

/-! ### The masks -/

/-- The ROM read at an address is the entry of R138's table there. -/
theorem rom_read_eq_getElem? (n : Nat) :
    rom.read n = [0x3F, 0x06, 0x5B, 0x4F, 0x66, 0x6D, 0xFD, 0x07, 0x7F, 0x6F][n]? := by
  by_cases h : n ≤ 9
  · interval_cases n <;> rfl
  · rw [rom_read_none n (by omega), eq_comm]
    exact List.getElem?_eq_none (by simp; omega)

/-- A digit has a mask exactly where its command is well formed (R64, R135). -/
theorem segmap_wellFormed_of_segMask {d : BitVec 4} {pt : Bool} {m : Byte} (h : segMask d pt = some m) :
    (Instr.segmap d pt).wellFormed = true :=
  (segMask_isSome d pt).symm.trans (Option.isSome_of_eq_some h)

/-- With the separator bit OR-ed in, a mask no longer depends on the separator flag. -/
theorem segMask_or_separatorBit {d : BitVec 4} {pt : Bool} {m : Byte} (h : segMask d pt = some m) :
    segMask d true = some (m ||| separatorBit) := by
  obtain ⟨r, hr, rfl⟩ := Option.map_eq_some_iff.mp h
  cases pt <;> simp [segMask, hr, overlay, BitVec.or_assoc]

/-- The masks with the separator are pairwise distinct: the seven segments alone tell the digits apart. -/
theorem segMask_separator_inj {d e : BitVec 4} (hd : (segMask d true).isSome)
    (h : segMask d true = segMask e true) : d = e := by
  revert d e
  decide

/-- Settles O41: two equal replies stay equal with the separator bit OR-ed in, where the digits differ pairwise. -/
theorem segmentMasksAreUnique : Obligations.SegmentMasksAreUnique := by
  refine ⟨fun d e pt pu m hd he => ?_, by decide⟩
  have hd' := segMask_or_separatorBit hd
  exact segMask_separator_inj (Option.isSome_of_eq_some hd') (hd'.trans (segMask_or_separatorBit he).symm)

/-! ### The command -/

/-- A SEGMAP whose digit has a mask has no primitive to run, and completes where it starts (R132). -/
theorem exec_segmap_of_segMask {s : State} {d : BitVec 4} {pt : Bool} {m : Byte} (hp : s.phase = .idle)
    (h : segMask d pt = some m) : exec (.segmap d pt) s = .next (s.complete (.segmap d pt)) :=
  exec_of_runSeq_done (segmap_wellFormed_of_segMask h) hp rfl

/-- Settles O39: the table's entry under the overlay is the mask, and the reply of the completed SEGMAP. -/
theorem segmapRepliesTheMask : Obligations.SegmapRepliesTheMask := by
  intro s d pt m hp hm
  have hmask : segMask d pt = some (if pt then m ||| 0x80 else m) := by
    rw [segMask, rom_read_eq_getElem?, hm]
    rfl
  rw [exec_segmap_of_segMask hp hmask]
  simp [State.complete, State.replyFor, hmask, hp]

/-- Settles O40: such a SEGMAP is ill formed, and an IDLE engine refuses it. -/
theorem segmapAboveNineIsRefused : Obligations.SegmapAboveNineIsRefused := by
  intro s d pt hp hd
  have hw : (Instr.segmap d pt).wellFormed = false := decide_eq_false (by omega)
  rw [exec_illFormed hw, if_pos hp, State.refuse, hp]

/-- Settles O45: a SEGMAP is refused or completes where it starts; with no primitive to run, it never halts. -/
theorem segmapFrame : Obligations.SegmapFrame := by
  intro s t d pt h
  obtain ⟨hp, ⟨-, rfl⟩ | ⟨u, hu, rfl⟩ | hf⟩ := exec_cases h
  · simp [hp]
  · cases hu
    simp [hp]
  · cases hf

end Sys2Proof.Machine
end

section
/-! PROOFS. The reference host's time digits, separator flag and masks (spec/49_host_clock_application.md R144, R145,
R151). -/

namespace Sys2Proof.Machine

/-! ### The digits -/

/-- Settles O57: the quotients are bounded by the sample's ranges, and quotient and remainder make up the number. -/
theorem timeDigitsAreDecimal : Obligations.TimeDigitsAreDecimal := by
  intro t
  have hh := t.hour.isLt
  have hm := t.minute.isLt
  refine ⟨_, _, _, _, rfl, ?_⟩
  omega

theorem TimeSample.digits_le_nine (t : TimeSample) : ∀ d ∈ t.digits, d ≤ 9 := by
  obtain ⟨d0, d1, d2, d3, hd, h0, h1, h2, h3, -⟩ := timeDigitsAreDecimal t
  simp only [hd, List.forall_mem_cons]
  exact ⟨by omega, h1, by omega, h3, List.forall_mem_nil _⟩

/-! ### The separator flag -/

theorem pointsFlag_zero : pointsFlag 0 = Config.points0 := Bool.xor_false _

theorem pointsFlag_succ (k : Nat) : pointsFlag (k + 1) = !(pointsFlag k) := by
  have hparity : ((k + 1) % 2 == 1) = !(k % 2 == 1) := by
    obtain hk | hk := Nat.mod_two_eq_zero_or_one k <;> simp [Nat.add_mod, hk]
  rw [pointsFlag, hparity, Bool.xor_not, pointsFlag]

/-! ### The separator bit of the masks -/

/-- The overlay sets bit 7 where the separator flag is set, and keeps it as it is in the ROM otherwise (R134). -/
theorem overlay_getLsbD_seven (pt : Bool) (m : Byte) : (overlay pt m).getLsbD 7 = (pt || m.getLsbD 7) := by
  cases pt <;> simp [overlay, separatorBit]

/-- Of the ROM's entries exactly that of digit 6 has bit 7 (R138, R139). -/
theorem rom_read_getLsbD_seven {n : Nat} {r : Byte} (h : rom.read n = some r) : r.getLsbD 7 = decide (n = 6) := by
  have hn : n ≤ 9 := by
    by_contra hn
    simp [rom_read_none n (by omega)] at h
  interval_cases n <;> cases h <;> rfl

theorem segMask_getLsbD_seven {d : BitVec 4} {pt : Bool} {m : Byte} (h : segMask d pt = some m) :
    m.getLsbD 7 = (pt || decide (d.toNat = 6)) := by
  obtain ⟨r, hr, rfl⟩ := Option.map_eq_some_iff.mp h
  rw [overlay_getLsbD_seven, rom_read_getLsbD_seven hr]

/-- Each decimal digit has one mask, with bit 7 where the separator flag is set or the digit is 6. -/
theorem filterMap_segMask_getLsbD_seven (pt : Bool) (ds : List Nat) (h : ∀ d ∈ ds, d ≤ 9) :
    (ds.filterMap (fun d => segMask (BitVec.ofNat 4 d) pt)).map (fun m => m.getLsbD 7) =
      ds.map (fun d => pt || decide (d = 6)) := by
  induction ds with
  | nil => rfl
  | cons d ds ih =>
    obtain ⟨hd, hds⟩ := List.forall_mem_cons.mp h
    obtain ⟨_, m, rfl, hn, hm⟩ := exists_digit d hd pt
    simp only [List.filterMap_cons, hm, List.map_cons, ih hds, segMask_getLsbD_seven hm, hn]

theorem TimeSample.masks_getLsbD_seven (t : TimeSample) (pt : Bool) :
    (t.masks pt).map (fun m => m.getLsbD 7) = t.digits.map (fun d => pt || decide (d = 6)) :=
  filterMap_segMask_getLsbD_seven pt t.digits t.digits_le_nine

/-- Settles O58: the bits 7 of the masks, read for the flag set and for the flag clear. -/
theorem separatorInTheMasks : Obligations.SeparatorInTheMasks := by
  refine ⟨fun k => ⟨pointsFlag_zero, pointsFlag_succ k⟩, fun t => ⟨?_, fun m hm => ?_, ?_⟩⟩
  · simpa [TimeSample.digits] using congrArg List.length (t.masks_getLsbD_seven true)
  · have hbit := List.mem_map_of_mem (f := fun m : Byte => m.getLsbD 7) hm
    rw [t.masks_getLsbD_seven true] at hbit
    obtain ⟨d, -, hd⟩ := List.mem_map.mp hbit
    exact hd.symm
  · exact t.masks_getLsbD_seven false

end Sys2Proof.Machine
end

section
/-! PROOFS. Exceptions (spec/60_exceptions.md): what a HALTED engine and an IDLE one without a word do (R162, R175), which
command raises which code (R161), that a refusal raises no fault (R159), and that the platform's outcomes decide only where
TRACE stops (R157, R160). -/

namespace Sys2Proof.Machine

/-! ### Engines that run nothing -/

/-- Settles O10: polling a host that has no word answers the same state. -/
theorem idleEngineWithoutAWordWaits : Obligations.IdleEngineWithoutAWordWaits := by
  intro s hp hw
  simp only [step, hp, State.poll, State.fetch, hw]

theorem exec_halted {s : State} (h : s.phase = .halted) (i : Instr) : exec i s = .fault .halted := by
  cases hw : i.wellFormed with
  | true => rw [exec_wellFormed hw, State.runCommand_halted h]
  | false => rw [exec_illFormed hw, if_neg (by simp [h]), State.runCommand_halted h]

/-- Settles O11: the step and every command look at PHASE first. -/
theorem haltedEngineHasNoStep : Obligations.HaltedEngineHasNoStep := fun s h =>
  ⟨by simp only [step, h], exec_halted h⟩

/-! ### The code of a fault -/

/-- A command that halts raised the fault of a call that one of its primitives makes (R92, R158). -/
theorem exec_halted_call {s t : State} {i : Instr} (h : exec i s = .next t) (hh : t.phase = .halted) :
    ∃ op ∈ program i, ∃ (u : State) (p : Pin) (c : CallKind), u.callOf op.prim = some (p, c) ∧ t = u.raiseFatal p c := by
  obtain ⟨hp, ⟨-, rfl⟩ | ⟨u, -, rfl⟩ | hf⟩ := exec_cases h
  · simp at hh
  · simp at hh
  · obtain ⟨pre, op, post, u, hops, -, hd⟩ := State.runSeq_fatal_split hf
    obtain ⟨p, c, hc, -, rfl⟩ := State.doPrim_fatal_iff.mp hd
    exact ⟨op, by simp [hops], _, p, c, hc, rfl⟩

/-- A command of one primitive halts with the code of its one call. -/
theorem exec_singleOp_halted_fcode {i : Instr} {pr : Prim} (hi : program i = [⟨.keep, pr⟩]) {p : Pin} {c : CallKind}
    (hc : ∀ u : State, u.callOf pr = some (p, c)) {s t : State} (h : exec i s = .next t) (hh : t.phase = .halted) :
    t.fcode = callCode c := by
  obtain rfl | ⟨hidle, -⟩ := exec_singleOp_cases hi hc h
  · exact s.raiseFatal_fcode p c
  · simp [hidle] at hh

/-- START and STOP make writes only. -/
theorem framing_halted_fcode {i : Instr} (hi : i = .start ∨ i = .stop) {s t : State} (h : exec i s = .next t)
    (hh : t.phase = .halted) : t.fcode = .writeFail := by
  obtain ⟨op, hop, u, p, c, hc, rfl⟩ := exec_halted_call h hh
  obtain ⟨q, l, hw⟩ := framing_writes hi op hop
  rw [hw] at hc
  cases hc
  exact u.raiseFatal_fcode p _

/-- A line command makes no export. -/
theorem lineCommand_halted_fcode {i : Instr} (hi : isLineCommand i) {s t : State} (h : exec i s = .next t)
    (hh : t.phase = .halted) : t.fcode = .dirFail ∨ t.fcode = .writeFail ∨ t.fcode = .readFail := by
  obtain ⟨op, hop, u, p, c, hc, rfl⟩ := exec_halted_call h hh
  rw [State.raiseFatal_fcode]
  obtain ⟨l, rfl⟩ | rfl | ⟨-, m, rfl⟩ := State.callOf_onLine (lineCommand_onLine hi op hop) hc
  · exact .inr (.inl rfl)
  · exact .inr (.inr rfl)
  · exact .inl rfl

/-- Settles O53: the code is that of the failed call, and the command fixes which calls it makes. -/
theorem faultCodesByCommand : Obligations.FaultCodesByCommand := by
  intro s t i h hh
  refine ⟨?fatal, ?pexp, ?pdir, ?writes, ?prd, ?byteWrites, ?segmap⟩
  case fatal =>
    obtain ⟨-, -, u, p, c, -, rfl⟩ := exec_halted_call h hh
    exact u.raiseFatal_fatal p c
  case pexp =>
    rintro ⟨p, rfl⟩
    exact exec_singleOp_halted_fcode rfl (fun _ => rfl) h hh
  case pdir =>
    rintro ⟨p, m, rfl⟩
    exact exec_singleOp_halted_fcode rfl (fun _ => rfl) h hh
  case writes =>
    rintro (⟨p, l, rfl⟩ | hi)
    · exact exec_singleOp_halted_fcode rfl (fun _ => rfl) h hh
    · exact framing_halted_fcode hi h hh
  case prd =>
    rintro ⟨p, rfl⟩
    exact exec_singleOp_halted_fcode rfl (fun _ => rfl) h hh
  case byteWrites => exact fun hi => lineCommand_halted_fcode (.inr (.inr hi)) h hh
  case segmap =>
    rintro d pt rfl
    obtain ⟨op, hop, -⟩ := exec_halted_call h hh
    exact absurd hop List.not_mem_nil

/-! ### A refusal raises no fault -/

@[simp] theorem State.advance_refused (s : State) (i : Instr) (k : Nat) : (s.advance i k).refused = s.refused := by
  unfold State.advance
  split
  · exact s.arrive_refused i _
  · exact s.complete_refused i

/-- No micro-step refuses: the refusal is decided at decode (R76). -/
theorem State.microStep_refused (s : State) (i : Instr) (k : Nat) : (s.microStep i k).refused = s.refused := by
  cases hop : (program i)[k]? with
  | none => simp [State.microStep, hop]
  | some op =>
    have hsame := (s.doPrim_sameHost op.prim).refused
    obtain ⟨u, hu, he⟩ | ⟨p, c, -, he⟩ := State.microStep_cases (s := s) hop
    · rw [hu] at hsame
      rw [he, State.advance_refused]
      exact hsame
    · rw [he, State.raiseFatal_refused]

/-- Settles O54: a step that sets REFUSED is the refusal of a word or of an ill-formed command, which runs no primitive. -/
theorem refusalAndFaultNeverTogether : Obligations.RefusalAndFaultNeverTogether := by
  intro s t h hs ht
  obtain ⟨-, -, rfl⟩ | ⟨-, w, ws, -, ⟨r, -, rfl⟩ | ⟨i, -, hx⟩⟩ | ⟨i, k, -, rfl⟩ := step_cases h
  · simp [hs] at ht
  · exact ⟨rfl, rfl, rfl, rfl, rfl, rfl, rfl⟩
  · obtain ⟨-, rfl⟩ | ⟨hr, -⟩ := exec_sameHost hx
    · exact ⟨rfl, rfl, rfl, rfl, rfl, rfl, rfl⟩
    · simp [hr, hs] at ht
  · simp [State.microStep_refused, hs] at ht

/-! ### Two runs that differ in the outcomes -/

theorem State.runSeq_trace_prefix (i : Instr) (k : Nat) (ops : List MicroOp) (s : State) :
    s.trace <+: (State.runSeq i k ops s).state.trace := by
  cases h : State.runSeq i k ops s with
  | done v t =>
    obtain ⟨es, he, -⟩ := (State.runSeq_done_progress h).events
    exact ⟨es, he.symm⟩
  | fatal t =>
    obtain ⟨u, p, c, hpg, rfl⟩ := State.runSeq_fatal_raised h
    obtain ⟨es, he, -⟩ := hpg.events
    exact ⟨es, by simp [PrimResult.state, he]⟩

/-- A run that halts at its first micro-step leaves TRACE as it was (R160). -/
theorem State.runSeq_cons_fatal_trace {i : Instr} {k : Nat} {op : MicroOp} {rest : List MicroOp} {s t : State}
    (h : (s.enter i k).doOp op = .fatal t) : (State.runSeq i k (op :: rest) s).state.trace = s.trace := by
  obtain ⟨p, c, rfl⟩ := State.doOp_fatal h
  rw [State.runSeq_cons_fatal h]
  simp [PrimResult.state]

theorem State.callOf_withScript (s : State) (cs : List CallOutcome) (pr : Prim) :
    (s.withScript cs).callOf pr = s.callOf pr := by cases pr <;> rfl

/-- A micro-step that completes under both outcomes does the same under both. -/
theorem State.doOp_withScript_of_done {s t u : State} {cs : List CallOutcome} {op : MicroOp}
    (h : s.doOp op = .done () t) (h' : (s.withScript cs).doOp op = .done () u) : u = t.withScript cs := by
  rw [State.doOp, State.regAct_withScript] at h'
  have hd := State.doPrim_withScript (cs := cs) h fun p c hc => by
    by_contra hf
    have hfail := State.doPrim_fails ((State.callOf_withScript _ cs op.prim).trans hc) (eq_true_of_ne_false hf)
    rw [h'] at hfail
    cases hfail
  rw [h'] at hd
  cases hd
  rfl

/-- Of two runs that differ in the outcomes, the one that halts first leaves the beginning of the other's TRACE. -/
theorem State.runSeq_withScript_trace (i : Instr) (k : Nat) (ops : List MicroOp) (s : State) (cs : List CallOutcome) :
    (State.runSeq i k ops s).state.trace <+: (State.runSeq i k ops (s.withScript cs)).state.trace ∨
      (State.runSeq i k ops (s.withScript cs)).state.trace <+: (State.runSeq i k ops s).state.trace := by
  induction ops generalizing k s with
  | nil => exact .inl List.prefix_rfl
  | cons op rest ih =>
    cases hd : (s.enter i k).doOp op with
    | fatal t =>
      rw [State.runSeq_cons_fatal_trace hd]
      exact .inl (State.runSeq_trace_prefix i k (op :: rest) (s.withScript cs))
    | done v t =>
      cases hd' : ((s.withScript cs).enter i k).doOp op with
      | fatal u =>
        rw [State.runSeq_cons_fatal_trace hd']
        exact .inr (State.runSeq_trace_prefix i k (op :: rest) s)
      | done v' u =>
        obtain rfl := State.doOp_withScript_of_done hd hd'
        rw [State.runSeq_cons_done hd, State.runSeq_cons_done hd']
        exact ih (k + 1) t

/-- A command's TRACE is that of its run; an ill-formed one, which is refused, has no primitive to run. -/
theorem exec_trace {s t : State} {i : Instr} (h : exec i s = .next t) :
    t.trace = (State.runSeq i 0 (program i) s).state.trace := by
  obtain ⟨-, ⟨hw, rfl⟩ | ⟨u, hu, rfl⟩ | hf⟩ := exec_cases h
  · cases i with
    | segmap d pt => rfl
    | _ => cases hw
  · rw [hu]
    rfl
  · rw [hf]
    rfl

/-- Settles O52: the two commands' traces are those of two runs that differ in the outcomes. -/
theorem outcomesOnlyDecideWhereTraceStops : Obligations.OutcomesOnlyDecideWhereTraceStops := by
  intro s t u i cs ht hu
  rw [exec_trace ht, exec_trace hu]
  exact State.runSeq_withScript_trace i 0 (program i) s cs

end Sys2Proof.Machine
end

section
/-! PROOFS. Reset and hazards (spec/70_reset_and_hazards.md): the state at process start (R180), that a BUSY engine takes no
command word (R194), and the minimum waits (R190, R191). -/

namespace Sys2Proof.Machine

/-! ### Reset -/

/-- Settles O5: the launch passes the pins on and sets the rest to the reset values. -/
theorem launchHasTheResetValues : Obligations.LaunchHasTheResetValues := fun _ _ _ _ _ _ =>
  ⟨rfl, rfl, rfl, rfl, rfl, rfl, rfl, rfl⟩

/-! ### A BUSY engine -/

theorem State.runCommand_busy {s : State} {c : Instr} {k : Nat} (h : s.phase = .busy c k) (i : Instr)
    (ops : List MicroOp) : s.runCommand i ops = .refused .busy := by
  simp [State.runCommand, h]

theorem exec_busy {s : State} {c : Instr} {k : Nat} (h : s.phase = .busy c k) (i : Instr) :
    exec i s = .refused .busy := by
  cases hw : i.wellFormed with
  | true => rw [exec_wellFormed hw, State.runCommand_busy h]
  | false => rw [exec_illFormed hw, if_neg (by simp [h]), State.runCommand_busy h]

@[simp] theorem State.advance_hostWords (s : State) (i : Instr) (k : Nat) :
    (s.advance i k).hostWords = s.hostWords := by
  unfold State.advance
  split
  · exact s.arrive_hostWords i _
  · exact s.complete_hostWords i

/-- No micro-step takes a word from the host (R194). -/
theorem State.microStep_hostWords (s : State) (i : Instr) (k : Nat) : (s.microStep i k).hostWords = s.hostWords := by
  cases hop : (program i)[k]? with
  | none => simp [State.microStep, hop]
  | some op =>
    have hsame := (s.doPrim_sameHost op.prim).hostWords
    obtain ⟨u, hu, he⟩ | ⟨p, c, -, he⟩ := State.microStep_cases (s := s) hop
    · rw [hu] at hsame
      rw [he, State.advance_hostWords]
      exact hsame
    · rw [he, State.raiseFatal_hostWords]

/-- Settles O12: every command looks at PHASE first, and the step of a BUSY engine is a micro-step. -/
theorem busyEngineTakesNoWord : Obligations.BusyEngineTakesNoWord := fun s c k h =>
  ⟨exec_busy h, s.microStep c k, by simp only [step, h], s.microStep_hostWords c k⟩

/-! ### Minimum waits -/

@[simp] theorem minWait_append (es fs : List Event) : minWait (es ++ fs) = minWait es + minWait fs := by
  simp [minWait]

/-- A data bit waits T_SETUP before the rising clock edge and T_HIGH, 1000 ns, after it (R190). -/
theorem bitEvents_minWait (l : Level) : minWait (bitEvents l) = Config.tSetup + 1000 := by
  simp [minWait, bitEvents, Event.minWait, Config.duration]

theorem flatMap_bitEvents_minWait (ls : List Level) :
    minWait (ls.flatMap bitEvents) = ls.length * (Config.tSetup + 1000) := by
  induction ls with
  | nil => simp [minWait]
  | cons l ls ih =>
    rw [List.flatMap_cons, minWait_append, bitEvents_minWait, ih, List.length_cons, Nat.succ_mul, Nat.add_comm]

/-- The turnaround waits T_ACK, 50000 ns, three times, acknowledged or not (R190). -/
theorem turnaroundEvents_minWait (v : Int) : minWait (turnaroundEvents v) = 150000 := by
  by_cases hv : v = 0
  · subst hv
    simp [turnaroundEvents_of_ack, minWait, Event.minWait, Config.duration]
  · simp [turnaroundEvents_of_no_ack hv, minWait, Event.minWait, Config.duration]

theorem byteWriteEvents_minWait (b : Byte) (v : Int) :
    minWait (byteWriteEvents b v) = 8 * Config.tSetup + 8000 + 150000 := by
  have hbits : (byteBits b).length = 8 := rfl
  rw [byteWriteEvents_eq, minWait_append, flatMap_bitEvents_minWait, turnaroundEvents_minWait, hbits, Nat.mul_add]

theorem startEvents_minWait : minWait startEvents = 0 := rfl

theorem stopEvents_minWait : minWait stopEvents = 0 := rfl

/-- DISP waits in its four byte writes only. -/
theorem dispEvents_minWait (c : BitVec 2) (m : Byte) (v0 v1 v2 v3 : Int) :
    minWait (dispEvents c m v0 v1 v2 v3) = 32 * Config.tSetup + 32000 + 600000 := by
  simp only [dispEvents, minWait_append, startEvents_minWait, stopEvents_minWait, byteWriteEvents_minWait]
  omega

/-- Settles O56: only the data bits and the turnaround of a byte write wait. -/
theorem minimumWaits : Obligations.MinimumWaits := fun b v c m v0 v1 v2 v3 =>
  ⟨byteWriteEvents_minWait b v, dispEvents_minWait c m v0 v1 v2 v3, startEvents_minWait, stopEvents_minWait⟩

end Sys2Proof.Machine
end

section
/-! PROOFS. The decoder vectors (spec/95_test_vectors.md, L2): the words listed with a command are that command's
encoding, so the round trip decodes them; on the refused words the decoder is evaluated. -/

namespace Sys2Proof

/-- The round trip at a word known to be the command's (R71). -/
theorem decode_of_encode_eq {w : Word} (i : Instr) (hw : encode i = w := by rfl) (hi : i.wellFormed = true := by rfl) :
    decode w = .instr i :=
  hw ▸ decodeOfEncodeIsTheCommand i hi

/-- The vectors the decoder refuses: reserved opcodes (R67), a 1 in a bit that must be zero (R68), digits 10 and 15 (R69). -/
theorem decode_refusedVectors :
    decode 0x0000 = .reject .reservedOpcode ∧ decode 0xA000 = .reject .reservedOpcode ∧
    decode 0x5001 = .reject .mustBeZero ∧ decode 0x8400 = .reject .mustBeZero ∧ decode 0x9020 = .reject .mustBeZero ∧
    decode 0x900A = .reject .digitAboveNine ∧ decode 0x901F = .reject .digitAboveNine := by
  decide

/-- Settles O1: the accepted words by the round trip, the refused ones by evaluation. -/
theorem decoderVectorWords : Obligations.DecoderVectorWords :=
  ⟨decode_of_encode_eq (.pexp .dio), decode_of_encode_eq (.pdir .clk .inp), decode_of_encode_eq (.pdir .dio .out),
    decode_of_encode_eq (.pwr .clk true), decode_of_encode_eq (.pwr .dio false), decode_of_encode_eq (.prd .dio),
    decode_of_encode_eq .start, decode_of_encode_eq .stop, decode_of_encode_eq (.wbyte 0xFF),
    decode_of_encode_eq (.disp 3 0xED), decode_of_encode_eq (.segmap 9 true), decode_refusedVectors⟩

end Sys2Proof
end
